-- ==== Sys2Proof/Word.lean ====
section
/-! DEFINITION. The word types of QOSPI-FC (spec/10_state.md rule R12: 32-bit registers; spec/20_memory.md rule R40:
byte-addressed buffer space). All quantities are unsigned (spec/00_scope.md rule R7). -/

namespace Sys2Proof

/-- A byte of the host buffer space or of a chip register (R40). -/
abbrev Byte := BitVec 8

/-- A 32-bit register of the host interface or of the sequencer (R12, R23). -/
abbrev Word := BitVec 32

end Sys2Proof
end

