-- ==== Sys2Proof/Syntax.lean ====
section
/-! DEFINITION. The syntax: the thirty rows of spec/opcode_table.json as one inductive (eleven host operations, five
reserved host codes, fourteen link command kinds), the Command descriptor of spec/30_encoding.md rule R63, and the
textual host lines of rule R78. -/

namespace Sys2Proof

/-- The fourteen kinds of the Command Encoder (R68), in the order of their internal numbers 0 to 13. -/
inductive Kind where
  | rdStatus | rdSecurity | rdCfg | wrCfg | readArray | pageProgram | eraseBlock
  | chipErase | writeEnable | lpEnter | lpExit | memmapCfg | suspend | resume
  deriving DecidableEq, Repr

/-- The transfer style that follows a command (R70). -/
inductive Style where
  | none | blkRx | blkTx | asyncRx | asyncTx
  deriving DecidableEq, Repr

/-- Line count of one phase, `NONE` for an absent phase (R63, R65). -/
inductive Mode where
  | none | l1 | l4 | l8
  deriving DecidableEq, Repr

/-- Width in bits of an address or alternate-byte field (R63, R66). -/
inductive Size where
  | b8 | b16 | b24 | b32
  deriving DecidableEq, Repr

/-- Data direction: `rx` chip to block, `tx` block to chip (R63). -/
inductive Dir where
  | rx | tx
  deriving DecidableEq, Repr

/-- The Command descriptor (R63). -/
structure Command where
  opcode : Byte
  imode  : Mode
  amode  : Mode
  asize  : Size
  addr   : Word
  abmode : Mode
  absize : Size
  alt    : Word
  dummy  : BitVec 5
  dmode  : Mode
  ddir   : Dir
  dlen   : Word
  deriving DecidableEq, Repr

/-- The packed descriptor `CW0` to `CW3` (R64). -/
structure Packed where
  cw0 : Word
  cw1 : Word
  cw2 : Word
  cw3 : Word
  deriving DecidableEq, Repr

/-- One constructor per row of spec/opcode_table.json. A host operation has no operand of its own: its operands are
registers (R62). A link kind carries the operands `a` and `n` that its descriptor uses (R71). -/
inductive Instr where
  | init | getInfo | read | write | eraseBlock | eraseChip | getStatus
  | suspendErase | resumeErase | enterLowPower | leaveLowPower
  | reserved0 | reservedC | reservedD | reservedE | reservedF
  | kRdStatus
  | kRdSecurity
  | kRdCfg
  | kWrCfg (n : Word)
  | kReadArray (a n : Word)
  | kPageProgram (a n : Word)
  | kEraseBlock (a : Word)
  | kChipErase
  | kWriteEnable
  | kLpEnter
  | kLpExit
  | kMemmapCfg
  | kSuspend
  | kResume
  deriving DecidableEq, Repr

/-- A line of a host program (R78), operands in the order `ADDR, LEN, BUFPTR`. -/
inductive HostLine where
  | init | getInfo
  | read (a n p : Word)
  | write (a n p : Word)
  | eraseBlock (k : Word)
  | eraseChip | getStatus | suspendErase | resumeErase | enterLowPower | leaveLowPower
  deriving DecidableEq, Repr

end Sys2Proof
end

