-- ==== Sys2Proof/Config.lean ====
section
/-! DEFINITION. The build-time configuration record `CFG` (spec/00_scope.md rule R6), its default profile P_QUAD, and
the one free value of the model. Every rule is written over the field names, never over the numbers. -/

namespace Sys2Proof

/-- A line-count parameter: 1, 4 or 8 (R6, R65; spec/92_eei_decisions.md D6). -/
inductive Lines where
  | one | four | eight
  deriving DecidableEq, Repr

/-- The configured wide-line width `WIDE`: 4 or 8 (R6). -/
inductive Wide where
  | quad | octal
  deriving DecidableEq, Repr

/-- `ADDR_BITS`: 24 or 32 (R6, R66). -/
inductive AddrBits where
  | a24 | a32
  deriving DecidableEq, Repr

/-- The configuration record `CFG` (R6), with the two open platform parameters `HB_SIZE` (R40) and `REG_BASE` (R12).
Constant after build: no step changes it (R6, R29). -/
structure Config where
  capacity      : Nat
  pageSize      : Nat
  blockSize     : Nat
  tCmd          : Word
  tBlockErase   : Word
  tChipErase    : Word
  tXfer         : Word
  tBlocking     : Word
  wide          : Wide
  addrBits      : AddrBits
  im            : Lines
  amArray       : Lines
  amErase       : Lines
  abm           : Lines
  dmArray       : Lines
  dmReg         : Lines
  altNoPe       : Byte
  dummyRead     : BitVec 5
  opcRdStatus   : Byte
  opcRdSecurity : Byte
  opcRdCfg      : Byte
  opcWrCfg      : Byte
  opcReadArray  : Byte
  opcPageProgram : Byte
  opcEraseBlock : Byte
  opcChipErase  : Byte
  opcWriteEnable : Byte
  opcLpEnter    : Byte
  opcLpExit     : Byte
  opcSuspend    : Byte
  opcResume     : Byte
  srWip         : Byte
  srWel         : Byte
  srWideEn      : Byte
  secPsusp      : Byte
  secEsusp      : Byte
  secPfail      : Byte
  secEfail      : Byte
  cfgLen        : Nat
  cfgHpByte     : Nat
  cfgHpMask     : Byte
  hbSize        : Nat
  regBase       : Nat
  deriving DecidableEq, Repr

/-- Profile P_QUAD (R6). Its values other than the three geometry values are the spec's own general knowledge
(spec/93_implementation_defined.md G1). `HB_SIZE` is the value of spec/95_test_vectors.md; `REG_BASE` is open.
DESIGN CHOICE (log 3): the profile that State.reset carries. -/
def Config.pQuad : Config where
  capacity := 8388608
  pageSize := 256
  blockSize := 65536
  tCmd := 5000
  tBlockErase := 3500
  tChipErase := 240000
  tXfer := 5000
  tBlocking := 5000
  wide := .quad
  addrBits := .a24
  im := .one
  amArray := .four
  amErase := .one
  abm := .four
  dmArray := .four
  dmReg := .one
  altNoPe := 0xAA
  dummyRead := 4
  opcRdStatus := 0x05
  opcRdSecurity := 0x2B
  opcRdCfg := 0x15
  opcWrCfg := 0x01
  opcReadArray := 0xEB
  opcPageProgram := 0x38
  opcEraseBlock := 0xD8
  opcChipErase := 0x60
  opcWriteEnable := 0x06
  opcLpEnter := 0xB9
  opcLpExit := 0xAB
  opcSuspend := 0x75
  opcResume := 0x7A
  srWip := 0x01
  srWel := 0x02
  srWideEn := 0x40
  secPsusp := 0x04
  secEsusp := 0x08
  secPfail := 0x20
  secEfail := 0x40
  cfgLen := 2
  cfgHpByte := 1
  cfgHpMask := 0x02
  hbSize := 4096
  regBase := 0

/-- The number of bits `ADDR_BITS` stands for (R6). -/
def AddrBits.bits : AddrBits → Nat
  | .a24 => 24
  | .a32 => 32

/-- The thirteen opcode parameters (R68). -/
def Config.opcodes (c : Config) : List Byte :=
  [c.opcRdStatus, c.opcRdSecurity, c.opcRdCfg, c.opcWrCfg, c.opcReadArray, c.opcPageProgram, c.opcEraseBlock,
   c.opcChipErase, c.opcWriteEnable, c.opcLpEnter, c.opcLpExit, c.opcSuspend, c.opcResume]

/-- FREE VALUE (log 7): what an `INFO` register holds when the geometry parameter it should show does not fit 32 bits.
R169 says that such a value is excluded "for this register to be exact" and states no value. -/
opaque Config.freeWord : Nat → Word

end Sys2Proof
end

