-- ==== Sys2Proof/WellFormed.lean ====
section
/-! DEFINITION. Well-formedness: the constraints a configuration must satisfy (spec/00_scope.md rule R6,
spec/92_eei_decisions.md D6, spec/70_reset_and_hazards.md rule R245) and the operand constraints of the link kinds
(spec/40_command_encoder.md rules R94 to R97). -/

namespace Sys2Proof

/-- "capacity is an exact multiple of block size; block size is an exact multiple of page size", and `PAGE_SIZE >= 1`
(R6). `BLOCK_SIZE >= 1` is DEDUCED (log 13): R167 divides by it, and R7 divides by positive numbers only. -/
def Config.geometryOk (c : Config) : Bool :=
  decide (1 ≤ c.pageSize) && decide (1 ≤ c.blockSize) && decide (c.capacity % c.blockSize = 0)
    && decide (c.blockSize % c.pageSize = 0)

/-- `CAPACITY <= 2^ADDR_BITS` and `CAPACITY <= 2^32` (R6). -/
def Config.capacityFits (c : Config) : Bool :=
  decide (c.capacity ≤ 2 ^ c.addrBits.bits) && decide (c.capacity ≤ 2 ^ 32)

/-- "every bit-mask parameter is non-zero" (R6). -/
def Config.masksNonzero (c : Config) : Bool :=
  [c.srWip, c.srWel, c.srWideEn, c.secPsusp, c.secEsusp, c.secPfail, c.secEfail, c.cfgHpMask].all (fun m => m != 0)

/-- "`SR_WIP`, `SR_WEL`, `SR_WIDE_EN` are pairwise disjoint" (R6). -/
def Config.srDisjoint (c : Config) : Bool :=
  (c.srWip &&& c.srWel == 0) && (c.srWip &&& c.srWideEn == 0) && (c.srWel &&& c.srWideEn == 0)

/-- `CFG_LEN` is 1 to 3 and `CFG_HP_BYTE` is below it (R6). -/
def Config.cfgRegOk (c : Config) : Bool :=
  decide (1 ≤ c.cfgLen) && decide (c.cfgLen ≤ 3) && decide (c.cfgHpByte < c.cfgLen)

/-- A configuration the block may be built with (R6, R245). -/
def Config.valid (c : Config) : Bool :=
  c.geometryOk && c.capacityFits && c.masksNonzero && c.srDisjoint && c.cfgRegOk

/-- The opcode parameters are pairwise different, so that a packed descriptor names its opcode's kind. The spec does not
require it of a configuration; only decoding needs it (log 10). -/
def Config.opcodesDistinct (c : Config) : Bool := decide c.opcodes.Nodup

/-- The operand constraints of each link kind (R94 to R97); a host operation has no operand of its own (R62). -/
def Instr.wf (c : Config) : Instr → Bool
  | .kWrCfg n => decide (1 ≤ n.toNat) && decide (n.toNat ≤ 4)
  | .kReadArray a n => decide (1 ≤ n.toNat) && decide (a.toNat + n.toNat ≤ c.capacity)
  | .kPageProgram a n =>
      decide (a.toNat < c.capacity) && decide (1 ≤ n.toNat)
        && decide (n.toNat ≤ c.pageSize - a.toNat % c.pageSize)
  | .kEraseBlock a => decide (a.toNat < c.capacity) && decide (a.toNat % c.blockSize = 0)
  | .init | .getInfo | .read | .write | .eraseBlock | .eraseChip | .getStatus
  | .suspendErase | .resumeErase | .enterLowPower | .leaveLowPower
  | .reserved0 | .reservedC | .reservedD | .reservedE | .reservedF
  | .kRdStatus | .kRdSecurity | .kRdCfg | .kChipErase | .kWriteEnable | .kLpEnter | .kLpExit
  | .kMemmapCfg | .kSuspend | .kResume => true

end Sys2Proof
end

