-- ==== Sys2Proof/Machine/Encoder.lean ====
section
/-! DEFINITION. The Command Encoder (spec/40_command_encoder.md rules R90 to R105), the codes and packing of a
descriptor (spec/30_encoding.md rules R64 to R70), and its informative wire image (R75, R76). -/

namespace Sys2Proof

/-- `ModeOf(1) = L1`, `ModeOf(4) = L4`, `ModeOf(8) = L8` (R65). -/
def Lines.mode : Lines → Mode
  | .one => .l1
  | .four => .l4
  | .eight => .l8

/-- `SizeOf(ADDR_BITS)` (R66). -/
def AddrBits.size : AddrBits → Size
  | .a24 => .b24
  | .a32 => .b32

/-- Mode code (R65). -/
def Mode.code : Mode → BitVec 2
  | .none => 0
  | .l1 => 1
  | .l4 => 2
  | .l8 => 3

/-- The mode a code stands for (R65). -/
def Mode.ofCode (v : BitVec 2) : Mode :=
  if v = 0 then .none else if v = 1 then .l1 else if v = 2 then .l4 else .l8

/-- Size code (R66). -/
def Size.code : Size → BitVec 2
  | .b8 => 0
  | .b16 => 1
  | .b24 => 2
  | .b32 => 3

/-- The size a code stands for (R66). -/
def Size.ofCode (v : BitVec 2) : Size :=
  if v = 0 then .b8 else if v = 1 then .b16 else if v = 2 then .b24 else .b32

/-- Direction code: 0 = RX, 1 = TX (R64). -/
def Dir.code : Dir → BitVec 1
  | .rx => 0
  | .tx => 1

/-- The direction a code stands for (R64). -/
def Dir.ofCode (v : BitVec 1) : Dir := if v = 0 then .rx else .tx

/-- The kind numbers 0 to 13 (R68). -/
def Kind.number : Kind → Nat
  | .rdStatus => 0
  | .rdSecurity => 1
  | .rdCfg => 2
  | .wrCfg => 3
  | .readArray => 4
  | .pageProgram => 5
  | .eraseBlock => 6
  | .chipErase => 7
  | .writeEnable => 8
  | .lpEnter => 9
  | .lpExit => 10
  | .memmapCfg => 11
  | .suspend => 12
  | .resume => 13

/-- `Style(kind)` (R69, R70). `K_MEMMAP_CFG` is "never issued"; opcode_table.json gives its style as NONE (log 12). -/
def Kind.style : Kind → Style
  | .rdStatus | .rdSecurity | .rdCfg => .blkRx
  | .wrCfg => .blkTx
  | .readArray => .asyncRx
  | .pageProgram => .asyncTx
  | .eraseBlock | .chipErase | .writeEnable | .lpEnter | .lpExit | .memmapCfg | .suspend | .resume => .none

/-- The opcode parameter of a kind (R68). -/
def Config.opcode (c : Config) : Kind → Byte
  | .rdStatus => c.opcRdStatus
  | .rdSecurity => c.opcRdSecurity
  | .rdCfg => c.opcRdCfg
  | .wrCfg => c.opcWrCfg
  | .readArray | .memmapCfg => c.opcReadArray
  | .pageProgram => c.opcPageProgram
  | .eraseBlock => c.opcEraseBlock
  | .chipErase => c.opcChipErase
  | .writeEnable => c.opcWriteEnable
  | .lpEnter => c.opcLpEnter
  | .lpExit => c.opcLpExit
  | .suspend => c.opcSuspend
  | .resume => c.opcResume

/-- The all-zero descriptor: the canonical zeros of R67, and the reset value of the `CMD` latch (R35). -/
def Command.zero : Command where
  opcode := 0
  imode := .none
  amode := .none
  asize := .b8
  addr := 0
  abmode := .none
  absize := .b8
  alt := 0
  dummy := 0
  dmode := .none
  ddir := .rx
  dlen := 0

/-- A command with an instruction phase only (R98 to R101, R103, R104). -/
def Config.bareCmd (c : Config) (opcode : Byte) : Command :=
  { Command.zero with opcode := opcode, imode := c.im.mode }

/-- A command with a register data phase of `n` bytes (R91 to R94). -/
def Config.regCmd (c : Config) (opcode : Byte) (dir : Dir) (n : Word) : Command :=
  { c.bareCmd opcode with dmode := c.dmReg.mode, ddir := dir, dlen := n }

/-- The read-array descriptor (R95), which `K_MEMMAP_CFG` uses with address and length 0 (R102). -/
def Config.readCmd (c : Config) (a n : Word) : Command where
  opcode := c.opcReadArray
  imode := c.im.mode
  amode := c.amArray.mode
  asize := c.addrBits.size
  addr := a
  abmode := c.abm.mode
  absize := .b8
  alt := c.altNoPe.setWidth 32
  dummy := c.dummyRead
  dmode := c.dmArray.mode
  ddir := .rx
  dlen := n

/-- `Encode(kind, a, n)`: pure and total over the kinds, with no fallback arm (R90, R74). -/
def encodeCmd (c : Config) (k : Kind) (a n : Word) : Command :=
  match k with
  | .rdStatus => c.regCmd c.opcRdStatus .rx 1
  | .rdSecurity => c.regCmd c.opcRdSecurity .rx 1
  | .rdCfg => c.regCmd c.opcRdCfg .rx (BitVec.ofNat 32 c.cfgLen)
  | .wrCfg => c.regCmd c.opcWrCfg .tx n
  | .readArray => c.readCmd a n
  | .pageProgram =>
      { c.bareCmd c.opcPageProgram with
        amode := c.amArray.mode, asize := c.addrBits.size, addr := a,
        dmode := c.dmArray.mode, ddir := .tx, dlen := n }
  | .eraseBlock =>
      { c.bareCmd c.opcEraseBlock with amode := c.amErase.mode, asize := c.addrBits.size, addr := a }
  | .chipErase => c.bareCmd c.opcChipErase
  | .writeEnable => c.bareCmd c.opcWriteEnable
  | .lpEnter => c.bareCmd c.opcLpEnter
  | .lpExit => c.bareCmd c.opcLpExit
  | .memmapCfg => c.readCmd 0 0
  | .suspend => c.bareCmd c.opcSuspend
  | .resume => c.bareCmd c.opcResume

/-- `CW0`: the fields of R64 from bit 31 down to bit 0. -/
def Command.cw0 (m : Command) : Word :=
  (0#6 ++ m.dummy ++ m.ddir.code ++ m.dmode.code ++ m.absize.code ++ m.abmode.code ++ m.asize.code
    ++ m.amode.code ++ m.imode.code ++ m.opcode : BitVec 32)

/-- The packed form (R64). -/
def Command.pack (m : Command) : Packed where
  cw0 := m.cw0
  cw1 := m.addr
  cw2 := m.alt
  cw3 := m.dlen

/-- The fields of a packed descriptor (R72). -/
def Packed.fields (p : Packed) : Command where
  opcode := p.cw0.extractLsb' 0 8
  imode := Mode.ofCode (p.cw0.extractLsb' 8 2)
  amode := Mode.ofCode (p.cw0.extractLsb' 10 2)
  asize := Size.ofCode (p.cw0.extractLsb' 12 2)
  addr := p.cw1
  abmode := Mode.ofCode (p.cw0.extractLsb' 14 2)
  absize := Size.ofCode (p.cw0.extractLsb' 16 2)
  alt := p.cw2
  dummy := p.cw0.extractLsb' 21 5
  dmode := Mode.ofCode (p.cw0.extractLsb' 18 2)
  ddir := Dir.ofCode (p.cw0.extractLsb' 20 1)
  dlen := p.cw3

/-- The kind and the operands of a link instruction; `none` for a host operation. Operands a kind ignores are 0. -/
def Instr.linkArgs : Instr → Option (Kind × Word × Word)
  | .kRdStatus => some (.rdStatus, 0, 0)
  | .kRdSecurity => some (.rdSecurity, 0, 0)
  | .kRdCfg => some (.rdCfg, 0, 0)
  | .kWrCfg n => some (.wrCfg, 0, n)
  | .kReadArray a n => some (.readArray, a, n)
  | .kPageProgram a n => some (.pageProgram, a, n)
  | .kEraseBlock a => some (.eraseBlock, a, 0)
  | .kChipErase => some (.chipErase, 0, 0)
  | .kWriteEnable => some (.writeEnable, 0, 0)
  | .kLpEnter => some (.lpEnter, 0, 0)
  | .kLpExit => some (.lpExit, 0, 0)
  | .kMemmapCfg => some (.memmapCfg, 0, 0)
  | .kSuspend => some (.suspend, 0, 0)
  | .kResume => some (.resume, 0, 0)
  | .init | .getInfo | .read | .write | .eraseBlock | .eraseChip | .getStatus
  | .suspendErase | .resumeErase | .enterLowPower | .leaveLowPower
  | .reserved0 | .reservedC | .reservedD | .reservedE | .reservedF => none

/-- The link instruction of a kind with the operands that kind uses (R71). -/
def Kind.instr (k : Kind) (a n : Word) : Instr :=
  match k with
  | .rdStatus => .kRdStatus
  | .rdSecurity => .kRdSecurity
  | .rdCfg => .kRdCfg
  | .wrCfg => .kWrCfg n
  | .readArray => .kReadArray a n
  | .pageProgram => .kPageProgram a n
  | .eraseBlock => .kEraseBlock a
  | .chipErase => .kChipErase
  | .writeEnable => .kWriteEnable
  | .lpEnter => .kLpEnter
  | .lpExit => .kLpExit
  | .memmapCfg => .kMemmapCfg
  | .suspend => .kSuspend
  | .resume => .kResume

/-- Number of lines of a mode, 0 for an absent phase (R65). -/
def Mode.lines : Mode → Nat
  | .none => 0
  | .l1 => 1
  | .l4 => 4
  | .l8 => 8

/-- Number of bits of a size (R66). -/
def Size.bits : Size → Nat
  | .b8 => 8
  | .b16 => 16
  | .b24 => 24
  | .b32 => 32

/-- A phase the link drives on the wire (R75). -/
inductive Phase where
  | instruction (opcode : Byte) (lines : Mode)
  | address (addr : Word) (size : Size) (lines : Mode)
  | alternate (alt : Word) (size : Size) (lines : Mode)
  | dummy (cycles : Nat)
  | data (dir : Dir) (len : Word) (lines : Mode)
  deriving DecidableEq, Repr

/-- The wire image of a descriptor: the phases that are present, in order (R75; informative, below the block). `data`
says whether a data primitive follows the command. -/
def Command.phases (m : Command) (data : Bool) : List Phase :=
  [Phase.instruction m.opcode m.imode]
    ++ (if m.amode = .none then [] else [Phase.address m.addr m.asize m.amode])
    ++ (if m.abmode = .none then [] else [Phase.alternate m.alt m.absize m.abmode])
    ++ (if m.dummy = 0 then [] else [Phase.dummy m.dummy.toNat])
    ++ (if m.dmode ≠ .none ∧ data = true then [Phase.data m.ddir m.dlen m.dmode] else [])

/-- Clock cycles of one phase: bits divided by lines (R76). -/
def Phase.cycles : Phase → Nat
  | .instruction _ l => 8 / l.lines
  | .address _ s l => s.bits / l.lines
  | .alternate _ s l => s.bits / l.lines
  | .dummy k => k
  | .data _ n l => 8 * n.toNat / l.lines

/-- Whether a data primitive follows the commands of a kind: its style is not NONE (R70, R127). -/
def Kind.hasData (k : Kind) : Bool := k.style != .none

/-- Clock cycles of a descriptor on the wire, absent phases as 0 (R76, informative). -/
def Command.cycles (m : Command) (data : Bool) : Nat := ((m.phases data).map Phase.cycles).sum

/-- The wire image of the command of a kind (R75): `K_MEMMAP_CFG`, which no data primitive follows, has no data phase. -/
def wireImage (c : Config) (k : Kind) (a n : Word) : List Phase := (encodeCmd c k a n).phases k.hasData

end Sys2Proof
end

