-- ==== Sys2Proof/Decode.lean ====
section
/-! DEFINITION. The decoder and the encoder. The block has two encodings software or the link can see: the host
operation word and the packed Command descriptor (spec/30_encoding.md rule R60). They are different spaces whose words
overlap, so a code says which space it is in (log 10). -/

namespace Sys2Proof

/-- A code of one of the two encodings of R60. -/
inductive Code where
  | hostWord (v : Word)
  | descriptor (p : Packed)
  deriving DecidableEq, Repr

/-- Why a packed descriptor is refused (spec/93_implementation_defined.md U15). -/
inductive DecodeError where
  | reservedBits      -- `CW0[31:26] != 0` (R72)
  | unknownOpcode     -- no kind has this opcode parameter (R68)
  | fieldsNotOfKind   -- a mode, size, direction or dummy field is not the kind's (R69, R66)
  | nonCanonicalZero  -- `addr`, `alt` or `dlen` of an absent phase is not 0 (R67)
  | emptyRead         -- a read of length 0 at an address other than 0: neither R95 nor R102
  deriving DecidableEq, Repr

/-- The operation that a 4-bit code selects (R61, R73). -/
def decodeOp (op : BitVec 4) : Instr :=
  match op.toNat with
  | 1 => .init
  | 2 => .getInfo
  | 3 => .read
  | 4 => .write
  | 5 => .eraseBlock
  | 6 => .eraseChip
  | 7 => .getStatus
  | 8 => .suspendErase
  | 9 => .resumeErase
  | 10 => .enterLowPower
  | 11 => .leaveLowPower
  | 12 => .reservedC
  | 13 => .reservedD
  | 14 => .reservedE
  | 15 => .reservedF
  | _ => .reserved0

/-- `OPCMD[3:0] = OP`; `OPCMD[31:4]` is ignored (R61). -/
def opField (v : Word) : BitVec 4 := v.extractLsb' 0 4

/-- The kinds a descriptor may be, in kind order; `K_MEMMAP_CFG` shares the opcode of `K_READ_ARRAY` (R102). -/
def kinds : List Kind :=
  [.rdStatus, .rdSecurity, .rdCfg, .wrCfg, .readArray, .pageProgram, .eraseBlock, .chipErase, .writeEnable,
   .lpEnter, .lpExit, .suspend, .resume]

/-- The first kind whose opcode parameter is `o` (R68). -/
def kindOfOpcode (c : Config) (o : Byte) : Option Kind := kinds.find? (fun k => c.opcode k == o)

/-- R67 on the operand words: a phase the mode fields leave out has zeros. -/
def canonicalZeros (m : Command) : Bool :=
  (m.amode != .none || m.addr == 0) && (m.abmode != .none || m.alt == 0) && (m.dmode != .none || m.dlen == 0)

/-- The link instruction of a packed descriptor (R72, U15). The kind is told by `CW0`, as the table's match and mask
tell it; a length or a pattern that a kind fixes is not compared (log 11). A read descriptor with length 0 is the
memory-mapped template, since a read has `n >= 1` (R95, R102). -/
def decodeDescriptor (c : Config) (p : Packed) : Except DecodeError Instr :=
  if p.cw0.extractLsb' 26 6 ≠ 0 then .error .reservedBits
  else
    match kindOfOpcode c (p.cw0.extractLsb' 0 8) with
    | none => .error .unknownOpcode
    | some k =>
      if (encodeCmd c k p.cw1 p.cw3).cw0 ≠ p.cw0 then .error .fieldsNotOfKind
      else if canonicalZeros p.fields = false then .error .nonCanonicalZero
      else if k = .readArray ∧ p.cw3 = 0 then
        if p.cw1 = 0 then .ok .kMemmapCfg else .error .emptyRead
      else .ok (k.instr p.cw1 p.cw3)

/-- The decoder: total on every code, refusing by name. -/
def decode (c : Config) : Code → Except DecodeError Instr
  | .hostWord v => .ok (decodeOp (opField v))
  | .descriptor p => decodeDescriptor c p

/-- The operation code of a host instruction (R61, R73); 0 for a link kind, which has none. -/
def opCode : Instr → BitVec 4
  | .reserved0 => 0
  | .init => 1
  | .getInfo => 2
  | .read => 3
  | .write => 4
  | .eraseBlock => 5
  | .eraseChip => 6
  | .getStatus => 7
  | .suspendErase => 8
  | .resumeErase => 9
  | .enterLowPower => 10
  | .leaveLowPower => 11
  | .reservedC => 12
  | .reservedD => 13
  | .reservedE => 14
  | .reservedF => 15
  | .kRdStatus | .kRdSecurity | .kRdCfg | .kWrCfg _ | .kReadArray _ _ | .kPageProgram _ _ | .kEraseBlock _
  | .kChipErase | .kWriteEnable | .kLpEnter | .kLpExit | .kMemmapCfg | .kSuspend | .kResume => 0

/-- The encoder: the host word with its ignored bits 0 (R61), or the packed descriptor of the kind (R64). -/
def encode (c : Config) (i : Instr) : Code :=
  match i.linkArgs with
  | some (k, a, n) => .descriptor (encodeCmd c k a n).pack
  | none => .hostWord ((opCode i).setWidth 32)

/-- The register writes a host line expands to, as (offset, value) pairs in order; the last starts the operation
(R78). -/
def HostLine.writes : HostLine → List (Nat × Word)
  | .init => [(0x00, 1)]
  | .getInfo => [(0x00, 2)]
  | .read a n p => [(0x04, a), (0x08, n), (0x0C, p), (0x00, 3)]
  | .write a n p => [(0x04, a), (0x08, n), (0x0C, p), (0x00, 4)]
  | .eraseBlock k => [(0x04, k), (0x00, 5)]
  | .eraseChip => [(0x00, 6)]
  | .getStatus => [(0x00, 7)]
  | .suspendErase => [(0x00, 8)]
  | .resumeErase => [(0x00, 9)]
  | .enterLowPower => [(0x00, 10)]
  | .leaveLowPower => [(0x00, 11)]

/-- The four words of a table row's bits, the first word in bits 31:0; bits above `nbits` are 0. -/
def tableWords (nbits w : Nat) : Packed :=
  let v := w % 2 ^ nbits
  { cw0 := BitVec.ofNat 32 v, cw1 := BitVec.ofNat 32 (v / 2 ^ 32)
    cw2 := BitVec.ofNat 32 (v / 2 ^ 64), cw3 := BitVec.ofNat 32 (v / 2 ^ 96) }

/-- The instruction of a table row's bits under P_QUAD. The table lists two spaces side by side: bits that are a packed
descriptor are read as one, any other word is read as the host operation word (log 10). -/
def decodeTableWord (nbits w : Nat) : Option Instr :=
  let p := tableWords nbits w
  match decode Config.pQuad (.descriptor p) with
  | .ok i => some i
  | .error _ => (decode Config.pQuad (.hostWord p.cw0)).toOption

end Sys2Proof
end

