-- ==== Sys2Proof/Machine/State.lean ====
section
/-! DEFINITION. The state of QOSPI-FC as plain data (spec/10_state.md rules R10 to R28): the host-interface registers,
the sequencer position `SEQ`, the working registers; beside them the host buffer space `HB` (spec/20_memory.md rule
R40), and the model's own fields that carry the parameters of the step relation (R29): the configuration, the link's
transfers in flight and the agents' schedule (log 2, 3, 8). -/

namespace Sys2Proof.Machine

/-- The labels of the micro-programs and micro-subroutines (R11). -/
inductive Label where
  | start1
  | in1 | in2 | in3 | in4 | in5 | in6 | in7 | in8 | in9 | in10 | in11 | in12 | in13 | in14
  | gi1
  | rd1 | rd2 | rd3
  | wr1 | wr2 | wr3 | wr4 | wr5 | wr6
  | eb1 | eb2 | eb3 | eb4
  | ec1 | ec2 | ec3 | ec4
  | gst1 | gst2
  | su1 | su2
  | rs1 | rs2
  | le1 | le2
  | ll1 | ll2
  | issue1 | issue2 | issue3 | issue4
  | wait1 | wait2
  | poll1 | poll2 | poll3
  | wren1 | wren2
  | gs1 | gs2 | gs3
  deriving DecidableEq, Repr

/-- The error outcomes that have a code (R195). -/
inductive Err where
  | ok | link | timeout | verify | geometry | uninit | badOp
  deriving DecidableEq, Repr

/-- The four classes of `get_status` (R141, R20). -/
inductive ChipState where
  | ready | busy | suspended | failed
  deriving DecidableEq, Repr

/-- Three bytes: the configuration bytes `cfg_t[0..2]` (R28). -/
structure Bytes3 where
  b0 : Byte
  b1 : Byte
  b2 : Byte
  deriving DecidableEq, Repr

/-- Four bytes: `REGBUF[0..3]` (R27). -/
structure Bytes4 where
  b0 : Byte
  b1 : Byte
  b2 : Byte
  b3 : Byte
  deriving DecidableEq, Repr

/-- What the LINK agent answers to a primitive (R120 to R125). The bytes of an `ok` are read by `L_rxb` alone, the first
received first, as many as the primitive asked for (R123). -/
inductive Answer where
  | ok (bytes : Bytes4)
  | error
  deriving DecidableEq, Repr

/-- The result of `WaitFor` (R131). -/
inductive WaitResult where
  | ok | timeout
  deriving DecidableEq, Repr

/-- The width of a host access to the register file (R45). -/
inductive Width where
  | byte | half | word
  deriving DecidableEq, Repr

/-- The host buffer space as (address, byte) cells: addresses strictly rising, no cell holding 0x00, which is what an
unlisted address reads as (log 1). -/
abbrev Memory := List Host.Cell

/-- The host-interface registers (R12 to R22). Reserved bits read 0 and are not stored; `STAT.BUSY` is not stored but is
`SEQ != IDLE` (R11, log 14). -/
structure Regs where
  opcmd     : BitVec 4
  addr      : Word
  len       : Word
  bufptr    : Word
  done      : Bool
  inited    : Bool
  rxh       : Bool
  txh       : Bool
  result    : Word
  progress  : Word
  statusOut : ChipState
  rxsig     : Word
  txsig     : Word
  info0     : Word
  info1     : Word
  info2     : Word
  info3     : Word
  info4     : Word
  info5     : Word
  deriving DecidableEq, Repr

/-- The arguments of a pending `Issue(Encode(kind, a, n), Style(kind), ptr)` call, from the call until the return
(R127; the model's own field, log 5). -/
structure IssueArg where
  kind : Kind
  a    : Word
  n    : Word
  ptr  : Word
  deriving DecidableEq, Repr

/-- The working registers (R23 to R28), `w` of `ISSUE.3` and the pending call's arguments (R127, log 5). -/
structure Work where
  op     : BitVec 4
  a      : Word
  n      : Word
  p      : Word
  cur    : Word
  off    : Word
  chunk  : Word
  pmask  : Byte
  pmatch : Byte
  tmr    : Word
  cmd    : Command
  regbuf : Bytes4
  srT    : Byte
  cfgT   : Bytes3
  secT   : Byte
  sf     : BitVec 6
  gsT    : ChipState
  stage  : BitVec 4
  waited : WaitResult
  arg    : IssueArg
  deriving DecidableEq, Repr

/-- An accepted `L_rxa` whose callback has not been delivered (R34 a, R43). -/
structure RxXfer where
  ptr : Word
  len : Word
  deriving DecidableEq, Repr

/-- An accepted `L_txa` whose callback has not been delivered, with the bytes the LINK has already read (index, value)
(R34 a, R43). -/
structure TxXfer where
  ptr   : Word
  len   : Word
  taken : List (Nat × Byte)
  deriving DecidableEq, Repr

/-- The link's side of array data (R29, R43): transfers in flight, oldest first, and the byte lists it has transmitted,
newest first. It is the LINK agent's, not the block's (log 8). -/
structure Link where
  rx   : List RxXfer
  tx   : List TxXfer
  sent : List (List Byte)
  deriving DecidableEq, Repr

/-- One call of a link primitive with its answer (R78, R120 to R125): what the block shows on its link-side interface
(R3 b). -/
inductive LinkCall where
  | reset (ok : Bool)
  | send (kind : Kind) (cmd : Command) (ok : Bool)
  | txb (bytes : List Byte) (t : Word) (ok : Bool)
  | rxb (n : Word) (t : Word) (bytes : Option (List Byte))
  | txa (ptr n : Word) (ok : Bool)
  | rxa (ptr n : Word) (ok : Bool)
  deriving DecidableEq, Repr

/-- One atomic step of one agent (R5). The list of events is the schedule of a run: every interleaving and every choice
of the LINK is some list (log 2). -/
inductive Event where
  /-- CTRL takes its step; `ans` is the LINK's answer, read if the step calls a primitive (R120). -/
  | ctrl (ans : Answer)
  /-- HOST writes the register file at a bus address (R12, R45). -/
  | hostWrite (addr : Nat) (width : Width) (v : Word)
  /-- HOST reads the register file at a bus address (R46). -/
  | hostRead (addr : Nat) (width : Width)
  /-- HOST stores bytes in `HB` (R40, R42). -/
  | hbWrite (addr : Nat) (bytes : List Byte)
  /-- HOST loads bytes from `HB` (R40, R41). -/
  | hbRead (addr n : Nat)
  /-- TIMER delivers a tick (R212). -/
  | tick
  /-- LINK delivers `on_receive_complete`; `some (k, d)`: for its `k`-th transfer in flight, with the data `d` (R43,
  R126); `none`: a callback that belongs to no transfer (R126, U11). -/
  | cbRx (done : Option (Nat × List Byte))
  /-- LINK delivers `on_transmit_complete`, for its `k`-th transfer in flight or for none (R43, R126). -/
  | cbTx (done : Option Nat)
  /-- LINK stores byte `i` of its `k`-th receive before the callback (R43, U7). -/
  | linkStore (k i : Nat) (b : Byte)
  /-- LINK reads byte `i` of its `k`-th transmit before the callback (R43, U7). -/
  | linkFetch (k i : Nat)
  /-- LINK leaves byte `i` of the buffer of a READ that has ended with ERR_LINK at `b`: the content of that buffer is any
  value (R170, U8, log 23). -/
  | linkResidue (i : Nat) (b : Byte)
  /-- LINK gives up its `k`-th receive: it admits links that are not well behaved (R126, U10). -/
  | linkDropRx (k : Nat)
  /-- LINK gives up its `k`-th transmit (R126, U10). -/
  | linkDropTx (k : Nat)
  /-- The reset input (R225). -/
  | rst
  deriving DecidableEq, Repr

/-- The schedule and the model's ports: events still to happen, the answer port of the running CTRL step, the link trace
(newest first), the data the HOST last read from registers and from `HB`, and the counter of free values (log 2, 7,
16). -/
structure Io where
  events  : List Event
  ans     : Answer
  trace   : List LinkCall
  busData : Word
  memData : List Byte
  draws   : Nat
  deriving DecidableEq, Repr

/-- The machine. `seq` is `SEQ` with the innermost label first; `[]` is `IDLE` (R11). -/
structure State where
  cfg  : Config
  regs : Regs
  seq  : List Label
  work : Work
  hb   : Memory
  link : Link
  io   : Io
  deriving DecidableEq, Repr

/-- Why the machine stops with a fault. -/
inductive Fault where
  /-- Raised by a meaning when `SEQ` is not at a label of that instruction's micro-program or of a subroutine it calls.
  Safe: a legal `SEQ` (R11) never reaches it. -/
  | notAtLabel
  deriving DecidableEq, Repr

/-- Why the model gives a step no meaning. -/
inductive Refusal where
  /-- An instruction without a meaning; no arm uses it. Safe. -/
  | notModelled (mnemonic : String)
  /-- Raised by `step` for a configuration that violates R6 (R245, U17). Safe. -/
  | badConfig
  /-- Raised by a host access to the register file that is not an aligned word access at offset 0x00 to 0x3C
  (R45, U6). Safe. -/
  | badRegAccess
  /-- Raised by an access to `HB` outside `0 .. HB_SIZE-1` (R41, R42, R239, U5). Safe. -/
  | outsideHb
  deriving DecidableEq, Repr

/-- Reset values of the host registers: all 0 (R35). -/
def Regs.reset : Regs where
  opcmd := 0
  addr := 0
  len := 0
  bufptr := 0
  done := false
  inited := false
  rxh := false
  txh := false
  result := 0
  progress := 0
  statusOut := .ready
  rxsig := 0
  txsig := 0
  info0 := 0
  info1 := 0
  info2 := 0
  info3 := 0
  info4 := 0
  info5 := 0

/-- Reset values of the working registers: all 0 (R35); for the model's own `waited` and `arg` see log 22. -/
def Work.reset : Work where
  op := 0
  a := 0
  n := 0
  p := 0
  cur := 0
  off := 0
  chunk := 0
  pmask := 0
  pmatch := 0
  tmr := 0
  cmd := Command.zero
  regbuf := ⟨0, 0, 0, 0⟩
  srT := 0
  cfgT := ⟨0, 0, 0⟩
  secT := 0
  sf := 0
  gsT := .ready
  stage := 0
  waited := .ok
  arg := ⟨.rdStatus, 0, 0, 0⟩

/-- The machine right after reset (R35, R225): every register 0, `SEQ = IDLE`; nothing listed in `HB`, no transfer in
flight, no event scheduled; the default profile (log 3). -/
def State.reset : State where
  cfg := Config.pQuad
  regs := Regs.reset
  seq := []
  work := Work.reset
  hb := []
  link := ⟨[], [], []⟩
  io := ⟨[], .ok ⟨0, 0, 0, 0⟩, [], 0, [], 0⟩

end Sys2Proof.Machine
end

