-- ==== Sys2Proof/Machine/Flags.lean ====
section
/-! DEFINITION. StatusFlags and the classification of the chip (spec/42_status_poller.md rules R140, R141), the verify
and match tests on register bytes (R142, R168), and the STAT, RESULT and STATUS_OUT words (spec/10_state.md rules R17,
R18, R20). -/

namespace Sys2Proof.Machine

/-- Whether any bit of the mask is set in a register byte (R140). -/
def anyBit (v mask : Byte) : Bool := v &&& mask != 0

/-- `Flags(sr, sec)`: bit 0 WIP, 1 WEL, 2 PFAIL, 3 EFAIL, 4 PSUSP, 5 ESUSP (R140). -/
def statusFlags (c : Config) (sr sec : Byte) : BitVec 6 :=
  BitVec.ofBool (anyBit sec c.secEsusp) ++ BitVec.ofBool (anyBit sec c.secPsusp)
    ++ BitVec.ofBool (anyBit sec c.secEfail) ++ BitVec.ofBool (anyBit sec c.secPfail)
    ++ BitVec.ofBool (anyBit sr c.srWel) ++ BitVec.ofBool (anyBit sr c.srWip)

/-- `Classify(SF)`: FAILED, else SUSPENDED, else BUSY, else READY (R141). -/
def classify (sf : BitVec 6) : ChipState :=
  if sf.getLsbD 2 || sf.getLsbD 3 then .failed
  else if sf.getLsbD 4 || sf.getLsbD 5 then .suspended
  else if sf.getLsbD 0 then .busy
  else .ready

/-- The poll's test `(REGBUF[0] & pmask) = pmatch` (R142). -/
def pollMatches (v mask want : Byte) : Bool := v &&& mask == want

/-- `CHIPSTATE`: 0 READY, 1 BUSY, 2 SUSPENDED, 3 FAILED (R20). -/
def ChipState.code : ChipState → BitVec 2
  | .ready => 0
  | .busy => 1
  | .suspended => 2
  | .failed => 3

/-- `RESULT.ERR` codes (R18, R195). -/
def Err.code : Err → BitVec 4
  | .ok => 0
  | .link => 1
  | .timeout => 2
  | .verify => 3
  | .geometry => 4
  | .uninit => 5
  | .badOp => 6

/-- The `RESULT` word: ERR in 3:0, STAGE in 7:4, PSE in 8, the rest 0 (R18). -/
def resultWord (e : Err) (stage : BitVec 4) (pse : Bool) : Word :=
  (0#23 ++ BitVec.ofBool pse ++ stage ++ e.code : BitVec 32)

/-- `STAT.BUSY = (SEQ != IDLE)` (R11, R17). -/
def State.busy (s : State) : Bool := !s.seq.isEmpty

/-- The `STAT` word: BUSY 0, DONE 1, INITED 2, bit 3 reserved, RXH 4, TXH 5, the rest 0 (R17). -/
def State.statWord (s : State) : Word :=
  (0#26 ++ BitVec.ofBool s.regs.txh ++ BitVec.ofBool s.regs.rxh ++ 0#1 ++ BitVec.ofBool s.regs.inited
    ++ BitVec.ofBool s.regs.done ++ BitVec.ofBool s.busy : BitVec 32)

end Sys2Proof.Machine
end

