-- ==== Sys2Proof/Machine/Operands.lean ====
section
/-! DEFINITION. Operand arithmetic: the range checks (spec/44_facade_ops.md rule R167), the chunk arithmetic and the
chunk list of the write splitter (spec/43_write_splitter.md rules R156, R158), the block address (spec/30_encoding.md
rule R71), the assembly of register payloads (R168) and byte access to `REGBUF`. -/

namespace Sys2Proof.Machine

/-- `RangeOk(a, n) = (a + n <= CAPACITY)`, the sum on naturals (R167). -/
def rangeOk (c : Config) (a n : Word) : Bool := decide (a.toNat + n.toNat ≤ c.capacity)

/-- `BlockOk(k) = (k < CAPACITY div BLOCK_SIZE)` (R167). -/
def blockOk (c : Config) (k : Word) : Bool := decide (k.toNat < c.capacity / c.blockSize)

/-- `a * BLOCK_SIZE`, the flash address of block `a` (R71, R172). -/
def blockAddr (c : Config) (k : Word) : Word := BitVec.ofNat 32 (k.toNat * c.blockSize)

/-- `FirstChunk(a, n) = min(PAGE_SIZE - (a mod PAGE_SIZE), n)` (R156). -/
def firstChunk (c : Config) (a n : Nat) : Nat := min (c.pageSize - a % c.pageSize) n

/-- `NextChunk(rem) = min(PAGE_SIZE, rem)` (R156). -/
def nextChunk (c : Config) (rem : Nat) : Nat := min c.pageSize rem

/-- One element of the chunk list: flash address, buffer offset, length (R158). -/
structure Chunk where
  addr : Nat
  off  : Nat
  len  : Nat
  deriving DecidableEq, Repr

/-- The chunks from offset `off` on, the next one of size `len`; `fuel` bounds their number (R158). -/
def chunksFrom (c : Config) (a n : Nat) : Nat → Nat → Nat → List Chunk
  | 0, _, _ => []
  | fuel + 1, off, len =>
    if off = n then []
    else ⟨a + off, off, len⟩ :: chunksFrom c a n fuel (off + len) (nextChunk c (n - (off + len)))

/-- `Chunks(a, n)` (R158). Every chunk is at least one byte long, so `n` chunks are enough. -/
def chunks (c : Config) (a n : Nat) : List Chunk := chunksFrom c a n n 0 (firstChunk c a n)

/-- The value an `INFO` register shows for a parameter: the parameter, or a free value if it does not fit (R169,
log 7). -/
def infoWord (v draw : Nat) : Word := if v < 2 ^ 32 then BitVec.ofNat 32 v else Config.freeWord draw

/-- `REGBUF[i]` (R27). -/
def Bytes4.get (b : Bytes4) (i : Nat) : Byte :=
  match i with
  | 0 => b.b0
  | 1 => b.b1
  | 2 => b.b2
  | _ => b.b3

/-- `cfg_t[j]` (R28). -/
def Bytes3.get (b : Bytes3) (j : Nat) : Byte :=
  match j with
  | 0 => b.b0
  | 1 => b.b1
  | _ => b.b2

/-- The first `n` bytes as a list, first byte first (R44 b). -/
def Bytes4.take (b : Bytes4) (n : Nat) : List Byte := [b.b0, b.b1, b.b2, b.b3].take n

/-- `REGBUF[0 .. n-1] <- bytes`, the other bytes kept (R127). -/
def Bytes4.receive (old : Bytes4) (n : Nat) (bytes : Bytes4) : Bytes4 where
  b0 := if 0 < n then bytes.b0 else old.b0
  b1 := if 1 < n then bytes.b1 else old.b1
  b2 := if 2 < n then bytes.b2 else old.b2
  b3 := if 3 < n then bytes.b3 else old.b3

/-- `cfg_t[j] <- REGBUF[j]` for `j = 0 .. CFG_LEN-1`, the other bytes kept (R168 `IN.9`). -/
def Bytes3.keepConfig (old : Bytes3) (c : Config) (b : Bytes4) : Bytes3 where
  b0 := if 0 < c.cfgLen then b.b0 else old.b0
  b1 := if 1 < c.cfgLen then b.b1 else old.b1
  b2 := if 2 < c.cfgLen then b.b2 else old.b2

/-- The configuration byte `j` to write: `cfg_t[j]`, with `CFG_HP_MASK` set in byte `CFG_HP_BYTE` (R168 `IN.11`). -/
def configByte (c : Config) (t : Bytes3) (j : Nat) : Byte :=
  if j = c.cfgHpByte then t.get j ||| c.cfgHpMask else t.get j

/-- The payload of the second register write, in `REGBUF[0 .. CFG_LEN]` (R168 `IN.11`). -/
def Bytes4.configPayload (old : Bytes4) (c : Config) (sr : Byte) (t : Bytes3) : Bytes4 where
  b0 := sr
  b1 := if 0 < c.cfgLen then configByte c t 0 else old.b1
  b2 := if 1 < c.cfgLen then configByte c t 1 else old.b2
  b3 := if 2 < c.cfgLen then configByte c t 2 else old.b3

end Sys2Proof.Machine
end

