-- ==== Sys2Proof/Machine/Ops.lean ====
section
/-! DEFINITION. The named operations: access to `HB` and to the register file, the sequencer (goto, call, return),
ending an operation and raising an error (spec/60_exceptions.md rules R201, R202), the link-side bookkeeping, and the
atomic steps of the HOST, LINK and TIMER agents and of reset. -/

namespace Sys2Proof.Machine

/-- The outcome of one step. -/
abbrev Out := Host.Outcome State Fault Refusal

/-! ### The host buffer space (spec/20_memory.md rules R40 to R43) -/

/-- What a byte of `HB` that nothing has written reads as. DESIGN CHOICE, unsafe (log 1): R227 and U14 leave it open. -/
def hbBlank : Byte := 0

/-- `HB[a]` (R41). -/
def hbByte : Memory → Nat → Byte
  | [], _ => hbBlank
  | (x, v) :: m, a => if a = x then v else hbByte m a

/-- `HB[a] <- b` (R42), keeping the canonical form. -/
def hbSet : Memory → Nat → Byte → Memory
  | [], a, b => if b = hbBlank then [] else [(a, b)]
  | (x, v) :: m, a, b =>
    if a < x then (if b = hbBlank then (x, v) :: m else (a, b) :: (x, v) :: m)
    else if a = x then (if b = hbBlank then m else (a, b) :: m)
    else (x, v) :: hbSet m a b

/-- Every cell lies above `lo`, addresses strictly rise, and no cell holds the blank byte. -/
def Memory.wfAbove : Nat → Memory → Bool
  | _, [] => true
  | lo, (x, v) :: m => decide (lo ≤ x) && (v != hbBlank) && Memory.wfAbove (x + 1) m

/-- The canonical form of a memory. -/
def Memory.wf (m : Memory) : Bool := Memory.wfAbove 0 m

/-- `HB[addr+i] <- v[i]` for every byte of the list (R42), without the bound. -/
def hbSetAll : Memory → Nat → List Byte → Memory
  | m, _, [] => m
  | m, a, b :: bs => hbSetAll (hbSet m a b) (a + 1) bs

/-- `MemRead(addr, n)`; `none` outside `0 .. HB_SIZE-1` (R41). -/
def memRead (c : Config) (m : Memory) (addr n : Nat) : Option (List Byte) :=
  if addr + n ≤ c.hbSize then some ((List.range n).map (fun i => hbByte m (addr + i))) else none

/-- `MemWrite(addr, n, v)` with `n` the length of `v`; `none` outside `0 .. HB_SIZE-1` (R42). -/
def memWrite (c : Config) (m : Memory) (addr : Nat) (v : List Byte) : Option Memory :=
  if addr + v.length ≤ c.hbSize then some (hbSetAll m addr v) else none

/-! ### The sequencer (spec/10_state.md rule R11) -/

/-- The next label in text order (R11). The last label of a micro-program or subroutine has none and stays. -/
def Label.succ : Label → Label
  | .in1 => .in2
  | .in2 => .in3
  | .in3 => .in4
  | .in4 => .in5
  | .in5 => .in6
  | .in6 => .in7
  | .in7 => .in8
  | .in8 => .in9
  | .in9 => .in10
  | .in10 => .in11
  | .in11 => .in12
  | .in12 => .in13
  | .in13 => .in14
  | .rd1 => .rd2
  | .rd2 => .rd3
  | .wr1 => .wr2
  | .wr2 => .wr3
  | .wr3 => .wr4
  | .wr4 => .wr5
  | .wr5 => .wr6
  | .eb1 => .eb2
  | .eb2 => .eb3
  | .eb3 => .eb4
  | .ec1 => .ec2
  | .ec2 => .ec3
  | .ec3 => .ec4
  | .gst1 => .gst2
  | .su1 => .su2
  | .rs1 => .rs2
  | .le1 => .le2
  | .ll1 => .ll2
  | .issue1 => .issue2
  | .issue2 => .issue3
  | .issue3 => .issue4
  | .wait1 => .wait2
  | .poll1 => .poll2
  | .poll2 => .poll3
  | .wren1 => .wren2
  | .gs1 => .gs2
  | .gs2 => .gs3
  | l => l

/-- Whether the label belongs to `Issue` or `WaitFor`, whose steps are those of the link command (R127, R131). -/
def Label.isTransport : Label → Bool
  | .issue1 | .issue2 | .issue3 | .issue4 | .wait1 | .wait2 => true
  | _ => false

/-- `pc <- L` at the level of the label being executed (R8). -/
def goto (l : Label) (s : State) : State := { s with seq := l :: s.seq.tail }

/-- A subroutine call pushes the callee's first label (R11). -/
def call (l : Label) (s : State) : State := { s with seq := l :: s.seq }

/-- `Issue(Encode(k, a, n), Style(k), ptr)` as a call (R127, log 5). -/
def callIssue (k : Kind) (a n ptr : Word) (s : State) : State :=
  { s with work.arg := ⟨k, a, n, ptr⟩, seq := .issue1 :: s.seq }

/-- `Complete(err, stg, pse)`: the only way an operation ends (R201). `STAT.BUSY <- 0` is `SEQ <- IDLE`. -/
def complete (e : Err) (stg : BitVec 4) (pse : Bool) (s : State) : State :=
  { s with
    regs := { s.regs with result := resultWord e stg pse, rxh := false, txh := false, done := true }
    seq := [] }

/-- `raise E`: the label stack is abandoned and the step ends as `Complete(code(E), stage, 0)` (R202). It is the block's
taking of an exception: nothing is saved and control goes to IDLE (R208). -/
def raise (e : Err) (s : State) : State := complete e s.work.stage false s

/-- The callee of the caller stack's head returns. The caller executes what its labelled lines still hold after the call
and goes to its next label (R11; log 4): `WREN.2` returns in turn (R146), `GS.1`, `GS.2`, `IN.3`, `IN.8`, `IN.9` store
the received bytes (R148, R168), `IN.7`, `IN.13` verify (R168, R198), `SU.2`, `RS.2` complete (R175, R176). -/
def returnTo : List Label → State → State
  | [], s => { s with seq := [] }
  | l :: up, s =>
    match l with
    | .wren2 => returnTo up s
    | .gs1 => { s with work.secT := s.work.regbuf.b0, seq := .gs2 :: up }
    | .gs2 => { s with work.srT := s.work.regbuf.b0, seq := .gs3 :: up }
    | .in3 => { s with work.srT := s.work.regbuf.b0, seq := .in4 :: up }
    | .in7 => if anyBit s.work.regbuf.b0 s.cfg.srWideEn then { s with seq := .in8 :: up } else raise .verify s
    | .in8 => { s with work.srT := s.work.regbuf.b0, seq := .in9 :: up }
    | .in9 => { s with work.cfgT := s.work.cfgT.keepConfig s.cfg s.work.regbuf, seq := .in10 :: up }
    | .in13 =>
      if anyBit (s.work.regbuf.get s.cfg.cfgHpByte) s.cfg.cfgHpMask then { s with seq := .in14 :: up }
      else raise .verify s
    | .su2 => complete .ok 0 false s
    | .rs2 => complete .ok 0 false s
    | _ => { s with seq := l.succ :: up }

/-- `(mask, match, T)` of the `PollUntil` a label calls (R144). -/
def pollArgs (c : Config) : Label → Option (Byte × Byte × Word)
  | .wren2 => some (c.srWel, c.srWel, c.tCmd)
  | .wr4 | .in2 | .in6 | .in12 => some (c.srWip, 0, c.tCmd)
  | .eb3 => some (c.srWip, 0, c.tBlockErase)
  | .ec3 => some (c.srWip, 0, c.tChipErase)
  | _ => none

/-! ### Start of an operation (spec/44_facade_ops.md rules R165, R166) -/

/-- Start: one atomic step of a HOST write to `OPCMD` while idle (R165). -/
def start (v : Word) (s : State) : State :=
  { s with
    regs := { s.regs with opcmd := opField v, done := false, result := 0, progress := 0 }
    work := { s.work with
      op := opField v, a := s.regs.addr, n := s.regs.len, p := s.regs.bufptr, stage := 0 }
    seq := [.start1] }

/-- START.1 of an operation that needs `STAT.INITED` and, where it has one, a geometry check: UninitError, then
UnsupportedGeometryError, else its first label (R166). -/
def startChecked (geometry : Bool) (first : Label) (s : State) : State :=
  if s.regs.inited = false then raise .uninit s
  else if geometry = false then raise .geometry s
  else goto first s

/-! ### The register file (spec/10_state.md rule R12, spec/20_memory.md rules R45, R46) -/

/-- The register a bus access names; `none` unless it is an aligned word access at offset 0x00 to 0x3C (R45 a). -/
def regIndex (c : Config) (addr : Nat) (w : Width) : Option Nat :=
  if w = .word ∧ c.regBase ≤ addr ∧ (addr - c.regBase) % 4 = 0 ∧ addr - c.regBase ≤ 0x3C then
    some ((addr - c.regBase) / 4)
  else none

/-- The value of `x[i]` (R12 to R22). -/
def regRead (s : State) (i : Nat) : Word :=
  match i with
  | 0 => s.regs.opcmd.setWidth 32
  | 1 => s.regs.addr
  | 2 => s.regs.len
  | 3 => s.regs.bufptr
  | 4 => s.statWord
  | 5 => s.regs.result
  | 6 => s.regs.progress
  | 7 => s.regs.statusOut.code.setWidth 32
  | 8 => s.regs.rxsig
  | 9 => s.regs.txsig
  | 10 => s.regs.info0
  | 11 => s.regs.info1
  | 12 => s.regs.info2
  | 13 => s.regs.info3
  | 14 => s.regs.info4
  | _ => s.regs.info5

/-- `x[i] <- v` by the HOST: ignored while busy (R231, R232) and for a read-only register (R12); a write to `OPCMD`
while idle starts an operation (R165). -/
def regWrite (i : Nat) (v : Word) (s : State) : State :=
  if s.busy then s
  else
    match i with
    | 0 => start v s
    | 1 => { s with regs.addr := v }
    | 2 => { s with regs.len := v }
    | 3 => { s with regs.bufptr := v }
    | _ => s

/-! ### Link-side bookkeeping (spec/41_transport_sync.md rules R120 to R131) -/

/-- Records a primitive and its answer (R78). -/
def record (e : LinkCall) (s : State) : State := { s with io.trace := e :: s.io.trace }

/-- Whether the LINK answered `ok`. -/
def Answer.isOk : Answer → Bool
  | .ok _ => true
  | .error => false

/-- `min(v + 1, 2^32 - 1)` (R130). -/
def satSucc (v : Word) : Word := if v = BitVec.allOnes 32 then v else v + 1

/-- The bytes a transmit puts on the link: those the LINK took early, the rest from `HB` now (R43). -/
def TxXfer.bytes (t : TxXfer) (m : Memory) : List Byte :=
  (List.range t.len.toNat).map (fun i => (t.taken.lookup i).getD (hbByte m (t.ptr.toNat + i)))

/-! ### Atomic steps of the other agents (spec/00_scope.md rule R5) -/

/-- `tick`: `if TMR > 0: TMR <- TMR - 1` (R212). -/
def tick (s : State) : State := if s.work.tmr = 0 then s else { s with work.tmr := s.work.tmr - 1 }

/-- `cb_rx` as the block sees it (R130). -/
def signalRx (s : State) : State := { s with regs.rxsig := satSucc s.regs.rxsig }

/-- `cb_tx` as the block sees it (R130). -/
def signalTx (s : State) : State := { s with regs.txsig := satSucc s.regs.txsig }

/-- `rst`: every register, `SEQ` and every working register to its reset value; link, `HB`, configuration and schedule
untouched (R225, R227). With `arg` goes the LINK's freedom over the buffer of a refused READ (U8; DESIGN CHOICE,
log 23). -/
def resetBlock (s : State) : State := { s with regs := Regs.reset, seq := [], work := Work.reset }

/-- `on_receive_complete` of the LINK's `k`-th receive with its data: `MemWrite(ptr, n, d)`, then the signal (R43, R130).
A callback that belongs to no transfer in flight, or whose data is not the transfer's length, only signals (R126, U11,
log 8). -/
def completeRx (done : Option (Nat × List Byte)) (s : State) : Out :=
  match done with
  | none => .next (signalRx s)
  | some (k, d) =>
    match s.link.rx[k]? with
    | none => .next (signalRx s)
    | some t =>
      if d.length ≠ t.len.toNat then .next (signalRx s)
      else
        match memWrite s.cfg s.hb t.ptr.toNat d with
        | none => .refused .outsideHb
        | some m => .next (signalRx { s with hb := m, link.rx := s.link.rx.eraseIdx k })

/-- `on_transmit_complete` of the LINK's `k`-th transmit: the bytes not yet read are read, then the signal (R43,
R130). -/
def completeTx (done : Option Nat) (s : State) : Out :=
  match done with
  | none => .next (signalTx s)
  | some k =>
    match s.link.tx[k]? with
    | none => .next (signalTx s)
    | some t =>
      if t.ptr.toNat + t.len.toNat ≤ s.cfg.hbSize then
        .next (signalTx { s with
          link := { s.link with tx := s.link.tx.eraseIdx k, sent := t.bytes s.hb :: s.link.sent } })
      else .refused .outsideHb

/-- The LINK stores byte `i` of its `k`-th receive early (R43, U7); nothing happens if there is no such byte. -/
def storeEarly (k i : Nat) (b : Byte) (s : State) : Out :=
  match s.link.rx[k]? with
  | none => .next s
  | some t =>
    if i < t.len.toNat then
      match memWrite s.cfg s.hb (t.ptr.toNat + i) [b] with
      | none => .refused .outsideHb
      | some m => .next { s with hb := m }
    else .next s

/-- The LINK reads byte `i` of its `k`-th transmit early (R43, U7); nothing happens if there is no such byte. -/
def fetchEarly (k i : Nat) (s : State) : Out :=
  match s.link.tx[k]? with
  | none => .next s
  | some t =>
    if i < t.len.toNat then
      if t.ptr.toNat + i < s.cfg.hbSize then
        .next { s with
          link.tx := s.link.tx.set k { t with taken := (i, hbByte s.hb (t.ptr.toNat + i)) :: t.taken } }
      else .refused .outsideHb
    else .next s

/-- The last primitive was one of a read-array command and the LINK refused it. -/
def readRefused : List LinkCall → Bool
  | .send .readArray _ false :: _ => true
  | .rxa _ _ false :: _ => true
  | _ => false

/-- CTRL is idle and the last primitive was the refused one of a read-array command: the READ has ended with ERR_LINK
(R170, R196). The command's arguments are still in `arg`; the reset input clears them, which ends the condition (DESIGN
CHOICE, log 23). -/
def readFailed (s : State) : Bool := !s.busy && s.work.arg.kind == .readArray && readRefused s.io.trace

/-- Byte `i` of the buffer of a READ that ended with ERR_LINK takes any value (R170, U8), while CTRL is idle and until the
next primitive or reset (DESIGN CHOICE, log 23); nothing happens if there is no such byte. -/
def residue (i : Nat) (b : Byte) (s : State) : Out :=
  if readFailed s = true ∧ i < s.work.arg.n.toNat then
    match memWrite s.cfg s.hb (s.work.arg.ptr.toNat + i) [b] with
    | none => .refused .outsideHb
    | some m => .next { s with hb := m }
  else .next s

/-- One atomic step of an agent other than CTRL (R5). -/
def agentStep (e : Event) (s : State) : Out :=
  match e with
  | .ctrl _ => .next s
  | .hostWrite addr w v =>
    match regIndex s.cfg addr w with
    | some i => .next (regWrite i v s)
    | none => .refused .badRegAccess
  | .hostRead addr w =>
    match regIndex s.cfg addr w with
    | some i => .next { s with io.busData := regRead s i }
    | none => .refused .badRegAccess
  | .hbWrite addr v =>
    match memWrite s.cfg s.hb addr v with
    | some m => .next { s with hb := m }
    | none => .refused .outsideHb
  | .hbRead addr n =>
    match memRead s.cfg s.hb addr n with
    | some d => .next { s with io.memData := d }
    | none => .refused .outsideHb
  | .tick => .next (tick s)
  | .cbRx done => completeRx done s
  | .cbTx done => completeTx done s
  | .linkStore k i b => storeEarly k i b s
  | .linkFetch k i => fetchEarly k i s
  | .linkResidue i b => residue i b s
  | .linkDropRx k => .next { s with link.rx := s.link.rx.eraseIdx k }
  | .linkDropTx k => .next { s with link.tx := s.link.tx.eraseIdx k }
  | .rst => .next (resetBlock s)

/-! ### Which instruction CTRL executes (spec/10_state.md rules R11, R23) -/

/-- The instruction whose labelled step CTRL takes next: none while IDLE; the link command being issued at a label of
`Issue` or `WaitFor`; else the latched host operation. -/
def fetch (s : State) : Option Instr :=
  match s.seq with
  | [] => none
  | l :: _ =>
    if l.isTransport then some (s.work.arg.kind.instr s.work.arg.a s.work.arg.n)
    else some (decodeOp s.work.op)

end Sys2Proof.Machine
end

