-- ==== Sys2Proof/Machine/Poller.lean ====
section
/-! DEFINITION. The Status Poller's subroutines (spec/42_status_poller.md): `PollUntil` (R142), `WREN` (R146) and
`GetStatus` (R148). The lines after a call stand in `returnTo`. -/

namespace Sys2Proof.Machine

/-- `POLL.1`: load mask, match and timer with the caller's arguments (R142, R144). -/
def pollLoad (args : Byte × Byte × Word) (s : State) : State :=
  goto .poll2 { s with work := { s.work with pmask := args.1, pmatch := args.2.1, tmr := args.2.2 } }

/-- `POLL.3`: a matching byte returns, else an expired timer raises TimeoutError, else another read (R142). -/
def pollTest (up : List Label) (s : State) : State :=
  if pollMatches s.work.regbuf.b0 s.work.pmask s.work.pmatch then returnTo up s
  else if s.work.tmr = 0 then raise .timeout s
  else goto .poll2 s

/-- `GS.3`: the flags, the class and `STATUS_OUT` (R148). -/
def latchStatus (s : State) : State :=
  let sf := statusFlags s.cfg s.work.srT s.work.secT
  { s with
    regs.statusOut := classify sf
    work := { s.work with sf := sf, gsT := classify sf } }

/-- The labelled step of a `PollUntil` that `SEQ` is at (R142). -/
def pollStep (s : State) : Out :=
  match s.seq with
  | .poll1 :: l :: _ =>
    match pollArgs s.cfg l with
    | some args => .next (pollLoad args s)
    | none => .fault .notAtLabel
  | .poll2 :: _ => .next (callIssue .rdStatus 0 0 0 s)
  | .poll3 :: up => .next (pollTest up s)
  | _ => .fault .notAtLabel

/-- The labelled step of `WREN`, or of the `PollUntil` inside an operation that polls, that `SEQ` is at (R146, R142). -/
def pollWrenStep (s : State) : Out :=
  match s.seq with
  | .wren1 :: _ => .next (callIssue .writeEnable 0 0 0 s)
  | .wren2 :: _ => .next (call .poll1 s)
  | _ => pollStep s

/-- The labelled step of `GetStatus` that `SEQ` is at (R148). -/
def getStatusStep (s : State) : Out :=
  match s.seq with
  | .gs1 :: _ => .next (callIssue .rdSecurity 0 0 0 s)
  | .gs2 :: _ => .next (callIssue .rdStatus 0 0 0 s)
  | .gs3 :: up => .next (returnTo up (latchStatus s))
  | _ => .fault .notAtLabel

end Sys2Proof.Machine
end

