-- ==== Sys2Proof/Machine/Facade.lean ====
section
/-! DEFINITION. The Block-Device Facade's other operations (spec/44_facade_ops.md rules R169, R170, R172 to R178) and the
reserved operation codes (spec/30_encoding.md rule R73). A meaning is the labelled step of its micro-program that `SEQ`
is at. -/

namespace Sys2Proof.Machine

/-- `GI.1`: the geometry and the time-out classes (R169); a geometry value that does not fit 32 bits shows a free value
(log 7). -/
def latchInfo (s : State) : State :=
  { s with
    regs := { s.regs with
      info0 := infoWord s.cfg.capacity s.io.draws
      info1 := infoWord s.cfg.pageSize (s.io.draws + 1)
      info2 := infoWord s.cfg.blockSize (s.io.draws + 2)
      info3 := s.cfg.tCmd
      info4 := s.cfg.tBlockErase
      info5 := s.cfg.tChipErase }
    io.draws := s.io.draws + 3 }

/-- GET_INFO (R169), allowed before INIT (R166). -/
def execGetInfo (s : State) : Out :=
  match s.seq with
  | [.start1] => .next (goto .gi1 s)
  | [.gi1] => .next (complete .ok 0 false (latchInfo s))
  | _ => .fault .notAtLabel

/-- READ (R170): one read-array command for the whole range, none for length 0. -/
def execRead (s : State) : Out :=
  match s.seq with
  | [.start1] => .next (startChecked (rangeOk s.cfg s.work.a s.work.n) .rd1 s)
  | [.rd1] => .next (if s.work.n = 0 then goto .rd3 s else goto .rd2 s)
  | [.rd2] => .next (callIssue .readArray s.work.a s.work.n s.work.p s)
  | [.rd3] => .next (complete .ok 0 false s)
  | _ => .fault .notAtLabel

/-- ERASE_BLOCK (R172). -/
def execEraseBlock (s : State) : Out :=
  match s.seq with
  | [.start1] => .next (startChecked (blockOk s.cfg s.work.a) .eb1 s)
  | [.eb1] => .next (call .wren1 s)
  | [.eb2] => .next (callIssue .eraseBlock (blockAddr s.cfg s.work.a) 0 0 s)
  | [.eb3] => .next (call .poll1 s)
  | [.eb4] => .next (complete .ok 0 false s)
  | _ => pollWrenStep s

/-- ERASE_CHIP (R173). -/
def execEraseChip (s : State) : Out :=
  match s.seq with
  | [.start1] => .next (startChecked true .ec1 s)
  | [.ec1] => .next (call .wren1 s)
  | [.ec2] => .next (callIssue .chipErase 0 0 0 s)
  | [.ec3] => .next (call .poll1 s)
  | [.ec4] => .next (complete .ok 0 false s)
  | _ => pollWrenStep s

/-- GET_STATUS (R174). -/
def execGetStatus (s : State) : Out :=
  match s.seq with
  | [.start1] => .next (startChecked true .gst1 s)
  | [.gst1] => .next (call .gs1 s)
  | [.gst2] => .next (complete .ok 0 false s)
  | _ => getStatusStep s

/-- SUSPEND_ERASE (R175): the suspend command only if the fresh class is BUSY, else `PSE` (R199). -/
def execSuspendErase (s : State) : Out :=
  match s.seq with
  | [.start1] => .next (startChecked true .su1 s)
  | [.su1] => .next (call .gs1 s)
  | [.su2] =>
    .next (if s.work.gsT = .busy then callIssue .suspend 0 0 0 s else complete .ok 0 true s)
  | _ => getStatusStep s

/-- RESUME_ERASE (R176): the resume command only if the fresh class is SUSPENDED, else `PSE` (R199). -/
def execResumeErase (s : State) : Out :=
  match s.seq with
  | [.start1] => .next (startChecked true .rs1 s)
  | [.rs1] => .next (call .gs1 s)
  | [.rs2] =>
    .next (if s.work.gsT = .suspended then callIssue .resume 0 0 0 s else complete .ok 0 true s)
  | _ => getStatusStep s

/-- ENTER_LOW_POWER (R177). -/
def execEnterLowPower (s : State) : Out :=
  match s.seq with
  | [.start1] => .next (startChecked true .le1 s)
  | [.le1] => .next (callIssue .lpEnter 0 0 0 s)
  | [.le2] => .next (complete .ok 0 false s)
  | _ => .fault .notAtLabel

/-- LEAVE_LOW_POWER (R178). -/
def execLeaveLowPower (s : State) : Out :=
  match s.seq with
  | [.start1] => .next (startChecked true .ll1 s)
  | [.ll1] => .next (callIssue .lpExit 0 0 0 s)
  | [.ll2] => .next (complete .ok 0 false s)
  | _ => .fault .notAtLabel

/-- START.1 of a reserved code: BadOpError, tested first, no link action (R73, R166, R204). -/
def badOpStep (s : State) : Out :=
  match s.seq with
  | [.start1] => .next (raise .badOp s)
  | _ => .fault .notAtLabel

/-- Reserved code 0x0 (R73). -/
def execReserved0 (s : State) : Out := badOpStep s

/-- Reserved code 0xC (R73). -/
def execReservedC (s : State) : Out := badOpStep s

/-- Reserved code 0xD (R73). -/
def execReservedD (s : State) : Out := badOpStep s

/-- Reserved code 0xE (R73). -/
def execReservedE (s : State) : Out := badOpStep s

/-- Reserved code 0xF (R73). -/
def execReservedF (s : State) : Out := badOpStep s

end Sys2Proof.Machine
end

