-- ==== Sys2Proof/Machine/Init.lean ====
section
/-! DEFINITION. INIT (spec/44_facade_ops.md rule R168). -/

namespace Sys2Proof.Machine

/-- `IN.1`: `STAT.INITED <- 0`, `stage <- 1`, `L_reset()` (R168, R120). -/
def initReset (s : State) : State :=
  let s1 := record (.reset s.io.ans.isOk) { s with regs.inited := false, work.stage := 1 }
  match s.io.ans with
  | .error => raise .link s1
  | .ok _ => goto .in2 s1

/-- `IN.5`: the status byte with `SR_WIDE_EN` set is the payload of a one-byte register write (R168). -/
def initWriteStatus (s : State) : State :=
  callIssue .wrCfg 0 1 0 { s with work.regbuf.b0 := s.work.srT ||| s.cfg.srWideEn }

/-- `IN.11`: status and configuration bytes with `CFG_HP_MASK` set are the payload of the second register write
(R168). -/
def initWriteConfig (s : State) : State :=
  callIssue .wrCfg 0 (BitVec.ofNat 32 (1 + s.cfg.cfgLen)) 0
    { s with work.regbuf := s.work.regbuf.configPayload s.cfg s.work.srT s.work.cfgT }

/-- `IN.14`: DriverState is created (R168). -/
def initDone (s : State) : State :=
  complete .ok 0 false { s with regs := { s.regs with rxsig := 0, txsig := 0, inited := true } }

/-- The labelled step of INIT that `SEQ` is at (R166, R168). -/
def execInit (s : State) : Out :=
  match s.seq with
  | [.start1] => .next (goto .in1 s)
  | [.in1] => .next (initReset s)
  | [.in2] => .next (call .poll1 s)
  | [.in3] => .next (callIssue .rdStatus 0 0 0 { s with work.stage := 2 })
  | [.in4] => .next (call .wren1 s)
  | [.in5] => .next (initWriteStatus s)
  | [.in6] => .next (call .poll1 s)
  | [.in7] => .next (callIssue .rdStatus 0 0 0 s)
  | [.in8] => .next (callIssue .rdStatus 0 0 0 { s with work.stage := 3 })
  | [.in9] => .next (callIssue .rdCfg 0 0 0 s)
  | [.in10] => .next (call .wren1 s)
  | [.in11] => .next (initWriteConfig s)
  | [.in12] => .next (call .poll1 s)
  | [.in13] => .next (callIssue .rdCfg 0 0 0 s)
  | [.in14] => .next (initDone s)
  | _ => pollWrenStep s

end Sys2Proof.Machine
end

