-- ==== Sys2Proof/Machine/Splitter.lean ====
section
/-! DEFINITION. The Page-Boundary Write Splitter, which is the body of WRITE (spec/43_write_splitter.md rule R157;
spec/44_facade_ops.md rule R171). -/

namespace Sys2Proof.Machine

/-- `WR.1`: the first chunk; a write of length 0 is done (R157, R164). -/
def writeFirst (s : State) : State :=
  let s1 := { s with
    regs.progress := 0
    work := { s.work with
      cur := s.work.a, off := 0
      chunk := BitVec.ofNat 32 (firstChunk s.cfg s.work.a.toNat s.work.n.toNat) } }
  if s.work.n = 0 then goto .wr6 s1 else goto .wr2 s1

/-- `WR.5`: advance by the chunk, report progress, size the next chunk (R157). -/
def writeAdvance (s : State) : State :=
  let off := s.work.off + s.work.chunk
  let s1 := { s with
    regs.progress := off
    work := { s.work with
      cur := s.work.cur + s.work.chunk, off := off
      chunk := BitVec.ofNat 32 (nextChunk s.cfg (s.work.n.toNat - off.toNat)) } }
  if off = s.work.n then goto .wr6 s1 else goto .wr2 s1

/-- The labelled step of WRITE that `SEQ` is at (R157, R166, R171). -/
def execWrite (s : State) : Out :=
  match s.seq with
  | [.start1] => .next (startChecked (rangeOk s.cfg s.work.a s.work.n) .wr1 s)
  | [.wr1] => .next (writeFirst s)
  | [.wr2] => .next (call .wren1 s)
  | [.wr3] => .next (callIssue .pageProgram s.work.cur s.work.chunk (s.work.p + s.work.off) s)
  | [.wr4] => .next (call .poll1 s)
  | [.wr5] => .next (writeAdvance s)
  | [.wr6] => .next (complete .ok 0 false s)
  | _ => pollWrenStep s

end Sys2Proof.Machine
end

