-- ==== Sys2Proof/Machine/Transport.lean ====
section
/-! DEFINITION. The Transport Engine and the Completion Synchronizer (spec/41_transport_sync.md rules R127 to R133), and
with them the fourteen link command kinds: the meaning of a kind is the labelled step of `Issue(Encode(kind, a, n),
Style(kind), ptr)`, and of the `WaitFor` it calls, that `SEQ` is at. -/

namespace Sys2Proof.Machine

/-- `ISSUE.1`: `CMD <- cmd`, `L_send(CMD)`; a command without a data primitive returns (R127). -/
def issueSend (k : Kind) (a n : Word) (up : List Label) (s : State) : State :=
  let cmd := encodeCmd s.cfg k a n
  let s1 := record (.send k cmd s.io.ans.isOk) { s with work.cmd := cmd }
  match s.io.ans with
  | .error => raise .link s1
  | .ok _ => if k.style = .none then returnTo up s1 else { s1 with seq := .issue2 :: up }

/-- `ISSUE.2` of `BLK_RX`: `L_rxb(CMD.dlen, T_BLOCKING)` into `REGBUF` (R127, R123). -/
def issueRxb (up : List Label) (s : State) : State :=
  match s.io.ans with
  | .error => raise .link (record (.rxb s.work.cmd.dlen s.cfg.tBlocking none) s)
  | .ok b =>
    returnTo up
      (record (.rxb s.work.cmd.dlen s.cfg.tBlocking (some (b.take s.work.cmd.dlen.toNat)))
        { s with work.regbuf := s.work.regbuf.receive s.work.cmd.dlen.toNat b })

/-- `ISSUE.2` of `BLK_TX`: `L_txb(REGBUF[0 .. CMD.dlen-1], T_BLOCKING)` (R127, R122). -/
def issueTxb (up : List Label) (s : State) : State :=
  let s1 := record (.txb (s.work.regbuf.take s.work.cmd.dlen.toNat) s.cfg.tBlocking s.io.ans.isOk) s
  match s.io.ans with
  | .error => raise .link s1
  | .ok _ => returnTo up s1

/-- `ISSUE.2` of `ASYNC_RX`: the handle, then `L_rxa(ptr, CMD.dlen)`; an accepted transfer is in flight (R127, R125,
R129). A refused one changes no byte of `HB` in this step; what the buffer holds after that READ is the event
`linkResidue`'s (R170, U8; DESIGN CHOICE, log 23). -/
def issueRxa (up : List Label) (s : State) : State :=
  let s1 := record (.rxa s.work.arg.ptr s.work.cmd.dlen s.io.ans.isOk) { s with regs.rxh := true }
  match s.io.ans with
  | .error => raise .link { s1 with regs.rxh := false }
  | .ok _ =>
    { s1 with link.rx := s1.link.rx ++ [⟨s.work.arg.ptr, s.work.cmd.dlen⟩], seq := .issue3 :: up }

/-- `ISSUE.2` of `ASYNC_TX`: the handle, then `L_txa(ptr, CMD.dlen)`; an accepted transfer is in flight (R127, R124,
R129). -/
def issueTxa (up : List Label) (s : State) : State :=
  let s1 := record (.txa s.work.arg.ptr s.work.cmd.dlen s.io.ans.isOk) { s with regs.txh := true }
  match s.io.ans with
  | .error => raise .link { s1 with regs.txh := false }
  | .ok _ =>
    { s1 with link.tx := s1.link.tx ++ [⟨s.work.arg.ptr, s.work.cmd.dlen, []⟩], seq := .issue3 :: up }

/-- `WAIT.2` on `RXSIG`: a signal wins over an expired timer; with neither, CTRL has no step (R131). -/
def waitRx (up : List Label) (s : State) : State :=
  if s.regs.rxsig ≠ 0 then
    returnTo up { s with regs.rxsig := s.regs.rxsig - 1, work.waited := .ok }
  else if s.work.tmr = 0 then returnTo up { s with work.waited := .timeout }
  else s

/-- `WAIT.2` on `TXSIG` (R131). -/
def waitTx (up : List Label) (s : State) : State :=
  if s.regs.txsig ≠ 0 then
    returnTo up { s with regs.txsig := s.regs.txsig - 1, work.waited := .ok }
  else if s.work.tmr = 0 then returnTo up { s with work.waited := .timeout }
  else s

/-- `ISSUE.4` after the handle is released: `w = timeout` becomes TimeoutError (R127). -/
def issueEnd (up : List Label) (s : State) : State :=
  if s.work.waited = .timeout then raise .timeout s else returnTo up s

/-- `ISSUE.2`, by the style of the kind (R127). -/
def issueData (k : Kind) (up : List Label) (s : State) : Out :=
  match k.style with
  | .blkRx => .next (issueRxb up s)
  | .blkTx => .next (issueTxb up s)
  | .asyncRx => .next (issueRxa up s)
  | .asyncTx => .next (issueTxa up s)
  | .none => .fault .notAtLabel

/-- `WAIT.2`, on the signal of the kind's direction (R127 `ISSUE.3`, R131). -/
def waitSignal (k : Kind) (up : List Label) (s : State) : Out :=
  match k.style with
  | .asyncRx => .next (waitRx up s)
  | .asyncTx => .next (waitTx up s)
  | _ => .fault .notAtLabel

/-- `ISSUE.4`: release the handle of the kind's direction, then the result (R127, R129). -/
def issueRelease (k : Kind) (up : List Label) (s : State) : Out :=
  match k.style with
  | .asyncRx => .next (issueEnd up { s with regs.rxh := false })
  | .asyncTx => .next (issueEnd up { s with regs.txh := false })
  | _ => .fault .notAtLabel

/-- The labelled step of `Issue` or `WaitFor` that `SEQ` is at, for kind `k` (R127, R131). -/
def issueStep (k : Kind) (a n : Word) (s : State) : Out :=
  match s.seq with
  | .issue1 :: up => .next (issueSend k a n up s)
  | .issue2 :: up => issueData k up s
  | .issue3 :: _ => .next (call .wait1 s)
  | .issue4 :: up => issueRelease k up s
  | .wait1 :: _ => .next (goto .wait2 { s with work.tmr := s.cfg.tXfer })
  | .wait2 :: up => waitSignal k up s
  | _ => .fault .notAtLabel

/-- `K_RD_STATUS` (R91). -/
def execKRdStatus (s : State) : Out := issueStep .rdStatus 0 0 s

/-- `K_RD_SECURITY` (R92). -/
def execKRdSecurity (s : State) : Out := issueStep .rdSecurity 0 0 s

/-- `K_RD_CFG` (R93). -/
def execKRdCfg (s : State) : Out := issueStep .rdCfg 0 0 s

/-- `K_WR_CFG` with a payload of `n` bytes in `REGBUF` (R94). -/
def execKWrCfg (n : Word) (s : State) : Out := issueStep .wrCfg 0 n s

/-- `K_READ_ARRAY` of `n` bytes at flash address `a` (R95). -/
def execKReadArray (a n : Word) (s : State) : Out := issueStep .readArray a n s

/-- `K_PAGE_PROGRAM` of `n` bytes at flash address `a` (R96). -/
def execKPageProgram (a n : Word) (s : State) : Out := issueStep .pageProgram a n s

/-- `K_ERASE_BLOCK` at flash address `a` (R97). -/
def execKEraseBlock (a : Word) (s : State) : Out := issueStep .eraseBlock a 0 s

/-- `K_CHIP_ERASE` (R98). -/
def execKChipErase (s : State) : Out := issueStep .chipErase 0 0 s

/-- `K_WRITE_ENABLE` (R99). -/
def execKWriteEnable (s : State) : Out := issueStep .writeEnable 0 0 s

/-- `K_LP_ENTER` (R100). -/
def execKLpEnter (s : State) : Out := issueStep .lpEnter 0 0 s

/-- `K_LP_EXIT` (R101). -/
def execKLpExit (s : State) : Out := issueStep .lpExit 0 0 s

/-- `K_MEMMAP_CFG` (R102): no operation issues it (R179); issued by itself it is the descriptor handed to the link, with
no data primitive (log 12). -/
def execKMemmapCfg (s : State) : Out := issueStep .memmapCfg 0 0 s

/-- `K_SUSPEND` (R103). -/
def execKSuspend (s : State) : Out := issueStep .suspend 0 0 s

/-- `K_RESUME` (R104). -/
def execKResume (s : State) : Out := issueStep .resume 0 0 s

end Sys2Proof.Machine
end

