-- ==== Sys2Proof/Machine/Dispatch.lean ====
section
/-! DEFINITION. One arm per row of spec/opcode_table.json. `exec i s` is one atomic CTRL step of `i` (R8): the labelled
step of its micro-program that `SEQ` is at. -/

namespace Sys2Proof.Machine

def exec (i : Instr) (s : State) : Host.Outcome State Fault Refusal :=
  match i with
  | .init => Sys2Proof.Machine.execInit s
  | .getInfo => Sys2Proof.Machine.execGetInfo s
  | .read => Sys2Proof.Machine.execRead s
  | .write => Sys2Proof.Machine.execWrite s
  | .eraseBlock => Sys2Proof.Machine.execEraseBlock s
  | .eraseChip => Sys2Proof.Machine.execEraseChip s
  | .getStatus => Sys2Proof.Machine.execGetStatus s
  | .suspendErase => Sys2Proof.Machine.execSuspendErase s
  | .resumeErase => Sys2Proof.Machine.execResumeErase s
  | .enterLowPower => Sys2Proof.Machine.execEnterLowPower s
  | .leaveLowPower => Sys2Proof.Machine.execLeaveLowPower s
  | .reserved0 => Sys2Proof.Machine.execReserved0 s
  | .reservedC => Sys2Proof.Machine.execReservedC s
  | .reservedD => Sys2Proof.Machine.execReservedD s
  | .reservedE => Sys2Proof.Machine.execReservedE s
  | .reservedF => Sys2Proof.Machine.execReservedF s
  | .kRdStatus => Sys2Proof.Machine.execKRdStatus s
  | .kRdSecurity => Sys2Proof.Machine.execKRdSecurity s
  | .kRdCfg => Sys2Proof.Machine.execKRdCfg s
  | .kWrCfg n => Sys2Proof.Machine.execKWrCfg n s
  | .kReadArray a n => Sys2Proof.Machine.execKReadArray a n s
  | .kPageProgram a n => Sys2Proof.Machine.execKPageProgram a n s
  | .kEraseBlock a => Sys2Proof.Machine.execKEraseBlock a s
  | .kChipErase => Sys2Proof.Machine.execKChipErase s
  | .kWriteEnable => Sys2Proof.Machine.execKWriteEnable s
  | .kLpEnter => Sys2Proof.Machine.execKLpEnter s
  | .kLpExit => Sys2Proof.Machine.execKLpExit s
  | .kMemmapCfg => Sys2Proof.Machine.execKMemmapCfg s
  | .kSuspend => Sys2Proof.Machine.execKSuspend s
  | .kResume => Sys2Proof.Machine.execKResume s

end Sys2Proof.Machine
end

