-- ==== Sys2Proof/Machine/Step.lean ====
section
/-! DEFINITION. One step of the machine: the next agent of the schedule takes its atomic step (spec/00_scope.md rule
R5). -/

namespace Sys2Proof.Machine

/-- The state after the schedule's head is taken off, with the LINK's answer on the answer port. -/
def State.takeEvent (s : State) (e : Event) (rest : List Event) : State :=
  match e with
  | .ctrl ans => { s with io := { s.io with events := rest, ans := ans } }
  | _ => { s with io := { s.io with events := rest } }

/-- CTRL's step: the fetched instruction is executed; while IDLE CTRL has no step (R11, R225). -/
def ctrlStep (s : State) : Host.Outcome State Fault Refusal :=
  match fetch s with
  | some i => exec i s
  | none => .next s

/-- One step: refused if the configuration violates R6 (R245); no change if no agent is scheduled (log 2). -/
def step (s : State) : Host.Outcome State Fault Refusal :=
  if s.cfg.valid then
    match s.io.events with
    | [] => .next s
    | .ctrl ans :: rest => ctrlStep (s.takeEvent (.ctrl ans) rest)
    | e :: rest => agentStep e (s.takeEvent e rest)
  else .refused .badConfig

/-- `SEQ` and the latches as they stand when CTRL is about to execute `i` for the first time: a host operation right
after its start (R165), a link command right after the call of its `Issue` (R127); the schedule gives CTRL the next
step, and the LINK answers ok. It stands for the HOST's write of the operation word, or for the caller of `Issue`
(log 2). -/
def State.readyToRun (s : State) (i : Instr) : State :=
  let io := { s.io with events := .ctrl (.ok ⟨0, 0, 0, 0⟩) :: s.io.events }
  match i.linkArgs with
  | some (k, a, n) => { s with work.arg := ⟨k, a, n, 0⟩, seq := [.issue1], io := io }
  | none => { start ((opCode i).setWidth 32) s with io := io }

/-- `s` with the instruction of a table row placed so that the next step executes it; unchanged if the decoder refuses
the bits. -/
def State.withFetchWord (s : State) (nbits w : Nat) : State :=
  match decodeTableWord nbits w with
  | some i => s.readyToRun i
  | none => s

end Sys2Proof.Machine
end

