-- ==== Sys2Proof/Safety.lean ====
section
/-! DEFINITION. What the statements call a good state and a good run: legal label stacks (spec/10_state.md rule R11), the
handle discipline (R129), admitted results (R206), the write loop (spec/43_write_splitter.md rules R157 to R162), the
order of link primitives (R235), well-behaved links (R126), and the latches no rule reads (R10). -/

namespace Sys2Proof.Machine

/-! ### Legal `SEQ` (R11) -/

/-- The micro-subroutines (R8). -/
inductive Sub where
  | issue | wait | poll | wren | getStatus
  deriving DecidableEq, Repr

/-- The micro-subroutine a label belongs to; none for a label of an operation. -/
def Label.sub : Label → Option Sub
  | .issue1 | .issue2 | .issue3 | .issue4 => some .issue
  | .wait1 | .wait2 => some .wait
  | .poll1 | .poll2 | .poll3 => some .poll
  | .wren1 | .wren2 => some .wren
  | .gs1 | .gs2 | .gs3 => some .getStatus
  | _ => none

/-- The micro-subroutine a label calls (R127, R142, R146, R148, R157, R168 to R178). -/
def Label.calls : Label → Option Sub
  | .in3 | .in5 | .in7 | .in8 | .in9 | .in11 | .in13 | .rd2 | .wr3 | .eb2 | .ec2 | .su2 | .rs2 | .le1 | .ll1
  | .poll2 | .wren1 | .gs1 | .gs2 => some .issue
  | .issue3 => some .wait
  | .in2 | .in6 | .in12 | .wr4 | .eb3 | .ec3 | .wren2 => some .poll
  | .in4 | .in10 | .wr2 | .eb1 | .ec1 => some .wren
  | .gst1 | .su1 | .rs1 => some .getStatus
  | _ => none

/-- The operation whose micro-program a label belongs to; none for `START.1` and for subroutine labels. -/
def Label.instr : Label → Option Instr
  | .in1 | .in2 | .in3 | .in4 | .in5 | .in6 | .in7 | .in8 | .in9 | .in10 | .in11 | .in12 | .in13 | .in14 => some .init
  | .gi1 => some .getInfo
  | .rd1 | .rd2 | .rd3 => some .read
  | .wr1 | .wr2 | .wr3 | .wr4 | .wr5 | .wr6 => some .write
  | .eb1 | .eb2 | .eb3 | .eb4 => some .eraseBlock
  | .ec1 | .ec2 | .ec3 | .ec4 => some .eraseChip
  | .gst1 | .gst2 => some .getStatus
  | .su1 | .su2 => some .suspendErase
  | .rs1 | .rs2 => some .resumeErase
  | .le1 | .le2 => some .enterLowPower
  | .ll1 | .ll2 => some .leaveLowPower
  | _ => none

/-- The kind a label's `Issue` call names (R142, R146, R148, R157, R168 to R178). -/
def Label.kind : Label → Option Kind
  | .in3 | .in7 | .in8 | .poll2 | .gs2 => some .rdStatus
  | .in5 | .in11 => some .wrCfg
  | .in9 | .in13 => some .rdCfg
  | .rd2 => some .readArray
  | .wr3 => some .pageProgram
  | .eb2 => some .eraseBlock
  | .ec2 => some .chipErase
  | .su2 => some .suspend
  | .rs2 => some .resume
  | .le1 => some .lpEnter
  | .ll1 => some .lpExit
  | .wren1 => some .writeEnable
  | .gs1 => some .rdSecurity
  | _ => none

/-- A label stack of operation `op`, innermost first: each label but the outermost is of the subroutine that the next
one calls; the outermost is `START.1` or a label of the operation (R11). -/
def legalSeq (op : BitVec 4) : List Label → Bool
  | [] => true
  | [l] => l == .start1 || l.instr == some (decodeOp op)
  | l :: m :: up => l.sub.isSome && l.sub == m.calls && legalSeq op (m :: up)

/-- The label that called the running `Issue`, if one runs. -/
def issueCaller : List Label → Option Label
  | l :: m :: up =>
    if l.sub = some .issue then some m else if l.sub = some .wait then issueCaller (m :: up) else none
  | _ => none

/-- The styles with which `Issue` can be at a label (R127). -/
def styleAt : Label → Style → Bool
  | .issue2, st => st != .none
  | .issue3, st | .issue4, st | .wait1, st | .wait2, st => st == .asyncRx || st == .asyncTx
  | _, _ => true

/-- CTRL is where a micro-program can be, and the pending command is the one its caller names (R11). -/
def ControlOk (s : State) : Prop :=
  legalSeq s.work.op s.seq = true
    ∧ (∀ l, issueCaller s.seq = some l → l.kind = some s.work.arg.kind)
    ∧ (∀ l ∈ s.seq.head?, styleAt l s.work.arg.kind.style = true)

/-! ### Handles (R129, R17) -/

/-- CTRL is between the acceptance of an async primitive and `ISSUE.4` of that direction. -/
def inAsync (st : Style) (s : State) : Bool :=
  match s.seq with
  | .issue3 :: _ | .issue4 :: _ | .wait1 :: _ | .wait2 :: _ => s.work.arg.kind.style == st
  | _ => false

/-- `RXH` and `TXH` are 1 exactly there (R129); so both are 0 while `BUSY = 0` (R17). -/
def HandlesOk (s : State) : Prop :=
  s.regs.rxh = inAsync .asyncRx s ∧ s.regs.txh = inAsync .asyncTx s

/-! ### Memory -/

/-- `HB` is canonical and lists only addresses of the space (R40). -/
def HbOk (s : State) : Prop := s.hb.wf = true ∧ ∀ x ∈ s.hb, x.1 < s.cfg.hbSize

/-! ### Results (R18, R206) -/

/-- The initialisation step a position of INIT is in (R168, R28): `IN.3` and `IN.8` advance it when they execute. -/
def stageAt (q : List Label) : BitVec 4 :=
  match q.getLast? with
  | some .in2 => 1
  | some .in3 => if q.length = 1 then 1 else 2
  | some .in4 | some .in5 | some .in6 | some .in7 => 2
  | some .in8 => if q.length = 1 then 2 else 3
  | some .in9 | some .in10 | some .in11 | some .in12 | some .in13 | some .in14 => 3
  | _ => 0

/-- While an operation runs, `stage` is its step number (R28). -/
def StageOk (s : State) : Prop := s.seq = [] ∨ s.work.stage = stageAt s.seq

/-- Which results an operation can end with (R206), with the stages of R18 and R195. -/
def allowedResult (i : Instr) (e : Err) (stage : BitVec 4) (pse : Bool) : Bool :=
  match e, i with
  | .ok, .suspendErase | .ok, .resumeErase => stage == 0
  | .ok, .init | .ok, .getInfo | .ok, .read | .ok, .write | .ok, .eraseBlock | .ok, .eraseChip
  | .ok, .getStatus | .ok, .enterLowPower | .ok, .leaveLowPower => stage == 0 && !pse
  | .link, .init | .timeout, .init => (stage == 1 || stage == 2 || stage == 3) && !pse
  | .verify, .init => (stage == 2 || stage == 3) && !pse
  | .link, .read | .link, .write | .link, .eraseBlock | .link, .eraseChip | .link, .getStatus
  | .link, .suspendErase | .link, .resumeErase | .link, .enterLowPower | .link, .leaveLowPower => stage == 0 && !pse
  | .timeout, .read | .timeout, .write | .timeout, .eraseBlock | .timeout, .eraseChip => stage == 0 && !pse
  | .geometry, .read | .geometry, .write | .geometry, .eraseBlock => stage == 0 && !pse
  | .uninit, .read | .uninit, .write | .uninit, .eraseBlock | .uninit, .eraseChip | .uninit, .getStatus
  | .uninit, .suspendErase | .uninit, .resumeErase | .uninit, .enterLowPower | .uninit, .leaveLowPower =>
    stage == 0 && !pse
  | .badOp, .reserved0 | .badOp, .reservedC | .badOp, .reservedD | .badOp, .reservedE | .badOp, .reservedF =>
    stage == 0 && !pse
  | _, _ => false

/-- A completed operation shows a result that R206 admits for it. -/
def ResultOk (s : State) : Prop :=
  s.regs.done = true →
    ∃ e stage pse, s.regs.result = resultWord e stage pse ∧ allowedResult (decodeOp s.work.op) e stage pse = true

/-- While an operation runs, `DONE` is 0 (R17). -/
def DoneOk (s : State) : Prop := s.seq ≠ [] → s.regs.done = false

/-- INIT past `IN.1` has `INITED` at 0, and a completed INIT leaves it at 1 exactly if its result is OK (R168, R207 a). -/
def InitedOk (s : State) : Prop :=
  (∀ l ∈ s.seq.getLast?, l.instr = some .init → l ≠ .in1 → s.regs.inited = false)
    ∧ (s.regs.done = true → decodeOp s.work.op = .init → (s.regs.inited = true ↔ s.regs.result = 0))

/-! ### The write loop (R157 to R162) -/

/-- A program command that stays inside one page and inside the capacity (R160, R159). -/
def InsideOnePage (c : Config) (addr len : Nat) : Prop :=
  1 ≤ len ∧ addr / c.pageSize = (addr + len - 1) / c.pageSize ∧ addr + len ≤ c.capacity

/-- The loop variables at `WR.2` to `WR.5` (R157, R159). -/
structure ChunkOk (s : State) : Prop where
  range    : s.work.a.toNat + s.work.n.toNat ≤ s.cfg.capacity
  cur      : s.work.cur.toNat = s.work.a.toNat + s.work.off.toNat
  nonempty : 1 ≤ s.work.chunk.toNat
  page     : s.work.cur.toNat % s.cfg.pageSize + s.work.chunk.toNat ≤ s.cfg.pageSize
  rest     : s.work.off.toNat + s.work.chunk.toNat ≤ s.work.n.toNat
  full     : s.work.off.toNat + s.work.chunk.toNat < s.work.n.toNat →
    s.work.cur.toNat % s.cfg.pageSize + s.work.chunk.toNat = s.cfg.pageSize
  progress : s.regs.progress = s.work.off

/-- The labels of the chunk loop. -/
def Label.inLoop : Label → Bool
  | .wr2 | .wr3 | .wr4 | .wr5 => true
  | _ => false

/-- WRITE is where its loop can be: the range checked at `START.1`, the chunk variables right inside the loop, the
command being issued that of the chunk (R157). -/
def WriteOk (s : State) : Prop :=
  (s.seq.getLast? = some .wr1 → s.work.a.toNat + s.work.n.toNat ≤ s.cfg.capacity)
    ∧ (∀ l ∈ s.seq.getLast?, l.inLoop = true → ChunkOk s)
    ∧ (issueCaller s.seq = some .wr3 → s.work.arg = ⟨.pageProgram, s.work.cur, s.work.chunk, s.work.p + s.work.off⟩)

/-- Every page-program command ever sent stays inside one page (R160). -/
def ProgramsInsidePages (s : State) : Prop :=
  ∀ cmd ok, LinkCall.send .pageProgram cmd ok ∈ s.io.trace →
    InsideOnePage s.cfg cmd.addr.toNat cmd.dlen.toNat

/-! ### Write-enable immediacy (R146, R235) -/

/-- The kinds that need the latch confirmed (R146). -/
def needsLatch : Kind → Bool
  | .pageProgram | .eraseBlock | .chipErase | .wrCfg => true
  | _ => false

/-- Newest first: status reads, each sent and answered, back to an accepted write-enable. -/
def latchPolls : List LinkCall → Bool
  | .send .writeEnable _ true :: _ => true
  | .rxb _ _ (some _) :: .send .rdStatus _ true :: rest => latchPolls rest
  | _ => false

/-- Newest first: a status read that shows the latch set, after status reads back to an accepted write-enable. -/
def latchConfirmed (c : Config) : List LinkCall → Bool
  | .rxb _ _ (some [b]) :: .send .rdStatus _ true :: rest => pollMatches b c.srWel c.srWel && latchPolls rest
  | _ => false

/-- Every program, erase or register-write command of the trace was sent right after a confirmed write-enable (R235). -/
def latchBeforeEach (c : Config) : List LinkCall → Bool
  | [] => true
  | .send k _ _ :: rest => (!needsLatch k || latchConfirmed c rest) && latchBeforeEach c rest
  | _ :: rest => latchBeforeEach c rest

/-- What the trace shows while CTRL is on the way from `WREN` to the command it guards (R146). -/
def latchPhase (s : State) : Prop :=
  match s.seq with
  | [l] | [.issue1, l] =>
    (l = .in5 ∨ l = .in11 ∨ l = .wr3 ∨ l = .eb2 ∨ l = .ec2) → latchConfirmed s.cfg s.io.trace = true
  | .wren2 :: _ | .poll1 :: .wren2 :: _ => latchPolls s.io.trace = true
  | .poll2 :: .wren2 :: _ | .issue1 :: .poll2 :: .wren2 :: _ =>
    latchPolls s.io.trace = true ∧ s.work.pmask = s.cfg.srWel ∧ s.work.pmatch = s.cfg.srWel
  | .issue2 :: .poll2 :: .wren2 :: _ =>
    (∃ cmd rest, s.io.trace = .send .rdStatus cmd true :: rest ∧ latchPolls rest = true)
      ∧ s.work.pmask = s.cfg.srWel ∧ s.work.pmatch = s.cfg.srWel ∧ s.work.cmd.dlen = 1
  | .poll3 :: .wren2 :: _ =>
    (∃ n t cmd rest, s.io.trace = .rxb n t (some [s.work.regbuf.b0]) :: .send .rdStatus cmd true :: rest
      ∧ latchPolls rest = true) ∧ s.work.pmask = s.cfg.srWel ∧ s.work.pmatch = s.cfg.srWel
  | _ => True

/-! ### Well-behaved links and hosts (R126, R21) -/

/-- The event respects `LinkWellBehaved` (R126): a callback completes a transfer in flight with its data, and no transfer
is given up. -/
def linkBehaves (s : State) : Event → Bool
  | .cbRx (some (k, d)) =>
    match s.link.rx[k]? with
    | some t => d.length == t.len.toNat
    | none => false
  | .cbRx none => false
  | .cbTx (some k) => (s.link.tx[k]?).isSome
  | .cbTx none => false
  | .linkDropRx _ | .linkDropTx _ => false
  | _ => true

/-- The step is neither a reset nor the time-out of a wait: the hazards of R226 and R236 do not arise. -/
def noHazard (s : State) : Event → Bool
  | .rst => false
  | .ctrl _ =>
    match s.seq with
    | .wait2 :: _ =>
      s.work.tmr != 0 || (s.work.arg.kind.style == .asyncRx && s.regs.rxsig != 0)
        || (s.work.arg.kind.style == .asyncTx && s.regs.txsig != 0)
    | _ => true
  | _ => true

/-- CTRL waits for the completion of an accepted transfer: after `ISSUE.2`, before `WAIT.2` has consumed the signal. -/
def awaits (st : Style) (s : State) : Bool :=
  match s.seq with
  | .issue3 :: _ | .wait1 :: _ | .wait2 :: _ => s.work.arg.kind.style == st
  | _ => false

/-- One transfer of a direction is in flight or signalled exactly while CTRL waits for it, and none otherwise (R21,
R233). -/
def SignalsOk (s : State) : Prop :=
  s.regs.rxsig.toNat + s.link.rx.length = (awaits .asyncRx s).toNat
    ∧ s.regs.txsig.toNat + s.link.tx.length = (awaits .asyncTx s).toNat

/-! ### Result latches (R10, R20) -/

/-- The state with the result latches, and the register data the HOST last read, forgotten. -/
def State.forgetResults (s : State) : State :=
  { s with
    regs := { s.regs with
      result := 0, progress := 0, statusOut := .ready
      info0 := 0, info1 := 0, info2 := 0, info3 := 0, info4 := 0, info5 := 0 }
    io.busData := 0 }

/-- The outcome of a step with the next state mapped. -/
def mapNext (f : State → State) : Host.Outcome State Fault Refusal → Host.Outcome State Fault Refusal
  | .next s => .next (f s)
  | .fault r => .fault r
  | .refused r => .refused r

/-! ### Runs -/

/-- CTRL's step with a link that answers ok, and with first byte `b` to a register read. -/
def Event.ok (b : Byte) : Event := .ctrl (.ok ⟨b, 0, 0, 0⟩)

/-- `k` CTRL steps that need no answer, or `ok`. -/
def okSteps (k : Nat) : List Event := List.replicate k (.ok 0)

/-- The steps of one chunk of WRITE, from `WR.2` to `WR.5`, with a prompt link: the latch confirmed at the first read,
the transfer completed before `ISSUE.3`, not busy at the first read (R157). -/
def promptChunk (c : Config) : List Event :=
  okSteps 7 ++ [.ok c.srWel] ++ okSteps 4 ++ [.cbTx (some 0)] ++ okSteps 11

/-- The page-program commands of a trace as (address, buffer pointer, length), newest first. -/
def programs : List LinkCall → List (Word × Word × Word)
  | .txa ptr n true :: .send .pageProgram cmd true :: rest => (cmd.addr, ptr, n) :: programs rest
  | _ :: rest => programs rest
  | [] => []

/-! ### Vocabulary of the statements -/

/-- The state after the operation has ended with `RESULT` = ERR + 16 STAGE + 256 PSE (R18, R201). -/
def State.endedWith (s : State) (err stage pse : Nat) : State :=
  { s with
    regs := { s.regs with
      result := BitVec.ofNat 32 (err + 16 * stage + 256 * pse), rxh := false, txh := false, done := true }
    seq := [] }

/-- The state with the label stack replaced. -/
def State.at (s : State) (q : List Label) : State := { s with seq := q }

/-- The state with one more primitive in the trace. -/
def State.traced (s : State) (e : LinkCall) : State := { s with io.trace := e :: s.io.trace }

/-- The state with the schedule replaced: the events at its head have been taken. -/
def State.afterEvents (s : State) (rest : List Event) : State := { s with io.events := rest }

/-- The state with the receive signal raised by one, saturating (R130). -/
def State.rxRaised (s : State) : State :=
  { s with regs.rxsig := BitVec.ofNat 32 (min (s.regs.rxsig.toNat + 1) (2 ^ 32 - 1)) }

/-- The state with the transmit signal raised by one, saturating (R130). -/
def State.txRaised (s : State) : State :=
  { s with regs.txsig := BitVec.ofNat 32 (min (s.regs.txsig.toNat + 1) (2 ^ 32 - 1)) }

/-- The state right after the call of `Issue(Encode(k, a, n), Style(k), ptr)` from the label stack `q` (R127). -/
def State.issuing (s : State) (q : List Label) (k : Kind) (a n ptr : Word) : State :=
  { s with work.arg := ⟨k, a, n, ptr⟩, seq := .issue1 :: q }

/-- The state after `CMD <- cmd` and `L_send(CMD)` with its answer (R127 `ISSUE.1`). -/
def State.sent (s : State) (k : Kind) (cmd : Command) (ok : Bool) : State :=
  { s with work.cmd := cmd, io.trace := .send k cmd ok :: s.io.trace }

/-- The registers of R12 and R23 to R28 as reset leaves them: all 0, `SEQ = IDLE` (R35). -/
structure ResetValues (t : State) : Prop where
  registers : ∀ i < 16, regRead t i = 0
  idle      : t.seq = []
  latches   : t.work.op = 0 ∧ t.work.a = 0 ∧ t.work.n = 0 ∧ t.work.p = 0
  splitter  : t.work.cur = 0 ∧ t.work.off = 0 ∧ t.work.chunk = 0
  poller    : t.work.pmask = 0 ∧ t.work.pmatch = 0 ∧ t.work.tmr = 0
  command   : t.work.cmd = ⟨0, .none, .none, .b8, 0, .none, .b8, 0, 0, .none, .rx, 0⟩
  regbuf    : t.work.regbuf = ⟨0, 0, 0, 0⟩
  temps     : t.work.srT = 0 ∧ t.work.cfgT = ⟨0, 0, 0⟩ ∧ t.work.secT = 0 ∧ t.work.sf = 0
  status    : t.work.gsT = .ready ∧ t.work.stage = 0

/-- A descriptor with an instruction phase alone: every other field a canonical zero (R67). -/
def instructionOnly (c : Config) (o : Byte) : Command :=
  ⟨o, c.im.mode, .none, .b8, 0, .none, .b8, 0, 0, .none, .rx, 0⟩

/-- A descriptor with an instruction phase and a data phase on the register lines. -/
def registerTransfer (c : Config) (o : Byte) (dir : Dir) (n : Word) : Command :=
  ⟨o, c.im.mode, .none, .b8, 0, .none, .b8, 0, 0, c.dmReg.mode, dir, n⟩

/-- The read descriptor of R95. -/
def arrayRead (c : Config) (a n : Word) : Command :=
  ⟨c.opcReadArray, c.im.mode, c.amArray.mode, c.addrBits.size, a, c.abm.mode, .b8, c.altNoPe.setWidth 32, c.dummyRead,
    c.dmArray.mode, .rx, n⟩

/-- The page-program descriptor of R96. -/
def arrayProgram (c : Config) (a n : Word) : Command :=
  ⟨c.opcPageProgram, c.im.mode, c.amArray.mode, c.addrBits.size, a, .none, .b8, 0, 0, c.dmArray.mode, .tx, n⟩

/-- The erase descriptor of R97. -/
def blockErase (c : Config) (a : Word) : Command :=
  ⟨c.opcEraseBlock, c.im.mode, c.amErase.mode, c.addrBits.size, a, .none, .b8, 0, 0, .none, .rx, 0⟩

end Sys2Proof.Machine
end

