-- ==== Sys2Proof/Certificates/Slice0/Obligations.lean ====
section
/-! DEFINITION. The statements for the provers. Each name says what its statement claims; the docstring names the rules
it formalises. `s.at q` is `s` with the label stack `q`, innermost label first (R11). -/

section Statements

open Sys2Proof Sys2Proof.Machine

/-! ### Encodings -/

/-- Decoding what the encoder makes of a well-formed instruction gives the instruction back (R61, R64, R72), under any
valid configuration whose opcode parameters differ (log 10). -/
def Obligations.DecodeOfEncode : Prop :=
  ∀ (c : Config) (i : Instr), c.valid = true → c.opcodesDistinct = true → i.wf c = true →
    decode c (encode c i) = .ok i

/-- The packed form is the sum of shifted fields of R64, with the codes of R65 and R66. -/
def Obligations.DescriptorWordLayout : Prop :=
  (∀ m : Command,
    m.pack.cw0 = m.opcode.setWidth 32 ||| (m.imode.code.setWidth 32 <<< 8) ||| (m.amode.code.setWidth 32 <<< 10)
        ||| (m.asize.code.setWidth 32 <<< 12) ||| (m.abmode.code.setWidth 32 <<< 14)
        ||| (m.absize.code.setWidth 32 <<< 16) ||| (m.dmode.code.setWidth 32 <<< 18)
        ||| (m.ddir.code.setWidth 32 <<< 20) ||| (m.dummy.setWidth 32 <<< 21)
      ∧ m.pack.cw1 = m.addr ∧ m.pack.cw2 = m.alt ∧ m.pack.cw3 = m.dlen)
  ∧ Mode.none.code = 0 ∧ Mode.l1.code = 1 ∧ Mode.l4.code = 2 ∧ Mode.l8.code = 3
  ∧ Lines.one.mode = .l1 ∧ Lines.four.mode = .l4 ∧ Lines.eight.mode = .l8
  ∧ Size.b8.code = 0 ∧ Size.b16.code = 1 ∧ Size.b24.code = 2 ∧ Size.b32.code = 3
  ∧ AddrBits.a24.size = .b24 ∧ AddrBits.a32.size = .b32
  ∧ Dir.rx.code = 0 ∧ Dir.tx.code = 1

/-- Reading the fields of a packed descriptor gives back the descriptor, and its reserved bits are 0 (R72, R64). -/
def Obligations.PackedFieldsRoundTrip : Prop :=
  ∀ m : Command, m.pack.fields = m ∧ m.pack.cw0.extractLsb' 26 6 = 0

/-- The operation is selected by bits 3:0 of the word written to `OPCMD` alone, with the codes of R61 and the reserved
codes of R73. -/
def Obligations.HostWordSelectsOperation : Prop :=
  ∀ (c : Config) (v : Word), ∃ i, decode c (.hostWord v) = .ok i
    ∧ [Instr.reserved0, .init, .getInfo, .read, .write, .eraseBlock, .eraseChip, .getStatus, .suspendErase,
        .resumeErase, .enterLowPower, .leaveLowPower, .reservedC, .reservedD, .reservedE, .reservedF][v.toNat % 16]?
      = some i

/-- The descriptors of the register kinds (R91 to R94) and of the control kinds (R98 to R101, R103, R104), whatever the
arguments a kind ignores. -/
def Obligations.RegisterAndControlDescriptors : Prop :=
  ∀ (c : Config) (a n : Word),
    encodeCmd c .rdStatus a n = registerTransfer c c.opcRdStatus .rx 1
    ∧ encodeCmd c .rdSecurity a n = registerTransfer c c.opcRdSecurity .rx 1
    ∧ encodeCmd c .rdCfg a n = registerTransfer c c.opcRdCfg .rx (BitVec.ofNat 32 c.cfgLen)
    ∧ encodeCmd c .wrCfg a n = registerTransfer c c.opcWrCfg .tx n
    ∧ encodeCmd c .chipErase a n = instructionOnly c c.opcChipErase
    ∧ encodeCmd c .writeEnable a n = instructionOnly c c.opcWriteEnable
    ∧ encodeCmd c .lpEnter a n = instructionOnly c c.opcLpEnter
    ∧ encodeCmd c .lpExit a n = instructionOnly c c.opcLpExit
    ∧ encodeCmd c .suspend a n = instructionOnly c c.opcSuspend
    ∧ encodeCmd c .resume a n = instructionOnly c c.opcResume

/-- The descriptors of the array kinds (R95 to R97, R102). -/
def Obligations.ArrayDescriptors : Prop :=
  ∀ (c : Config) (a n : Word),
    encodeCmd c .readArray a n = arrayRead c a n
    ∧ encodeCmd c .pageProgram a n = arrayProgram c a n
    ∧ encodeCmd c .eraseBlock a n = blockErase c a
    ∧ encodeCmd c .memmapCfg a n = arrayRead c 0 0

/-- The laws of the encoder (R105). -/
def Obligations.EncoderLaws : Prop :=
  ∀ (c : Config) (k : Kind) (a n : Word),
    (encodeCmd c k a n).imode = c.im.mode ∧ (encodeCmd c k a n).imode ≠ .none
    ∧ ((encodeCmd c k a n).amode ≠ .none ↔ k ∈ [Kind.readArray, .pageProgram, .eraseBlock, .memmapCfg])
    ∧ ((encodeCmd c k a n).abmode ≠ .none ↔ k ∈ [Kind.readArray, .memmapCfg])
    ∧ ((encodeCmd c k a n).dummy ≠ 0 ↔ k ∈ [Kind.readArray, .memmapCfg] ∧ c.dummyRead ≠ 0)
    ∧ ((encodeCmd c k a n).ddir = .tx ↔ k ∈ [Kind.wrCfg, .pageProgram])
    ∧ (encodeCmd c k a n).pack.cw0.toNat < 2 ^ 26
    ∧ encodeCmd c .memmapCfg a n = encodeCmd c .readArray 0 0

/-- The canonical zeros of every descriptor the encoder makes (R67). -/
def Obligations.CanonicalZeros : Prop :=
  ∀ (c : Config) (k : Kind) (a n : Word),
    ((encodeCmd c k a n).amode = .none → (encodeCmd c k a n).asize = .b8 ∧ (encodeCmd c k a n).addr = 0)
    ∧ ((encodeCmd c k a n).abmode = .none → (encodeCmd c k a n).absize = .b8 ∧ (encodeCmd c k a n).alt = 0)
    ∧ ((encodeCmd c k a n).dmode = .none → (encodeCmd c k a n).ddir = .rx ∧ (encodeCmd c k a n).dlen = 0)

/-- Words the spec writes out decode to the instruction they stand for, under P_QUAD (the examples of R91, R95, R96, R97,
R99, R102; log 10 tells the last from a read). -/
def Obligations.SpecWordsDecode : Prop :=
  decode Config.pQuad (.descriptor ⟨0x00040105, 0, 0, 1⟩) = .ok .kRdStatus
  ∧ decode Config.pQuad (.descriptor ⟨0x0088A9EB, 0x00012345, 0xAA, 300⟩) = .ok (.kReadArray 0x12345 300)
  ∧ decode Config.pQuad (.descriptor ⟨0x00182938, 0x000001F0, 0, 16⟩) = .ok (.kPageProgram 0x1F0 16)
  ∧ decode Config.pQuad (.descriptor ⟨0x000025D8, 0x00030000, 0, 0⟩) = .ok (.kEraseBlock 0x30000)
  ∧ decode Config.pQuad (.descriptor ⟨0x00000106, 0, 0, 0⟩) = .ok .kWriteEnable
  ∧ decode Config.pQuad (.descriptor ⟨0x0088A9EB, 0, 0xAA, 0⟩) = .ok .kMemmapCfg
  ∧ decode Config.pQuad (.hostWord 0x00000003) = .ok .read

/-! ### A step -/

/-- A step in which CTRL acts executes the instruction `SEQ` stands for: the command being issued at a label of `Issue`
or `WaitFor` (R127, R131), else the host operation whose code the word latched at the start decodes to (R23, R61). Around
it only the event is taken off and the LINK's answer put on the answer port. -/
def Obligations.StepRunsTheFetchedInstruction : Prop :=
  ∀ (s : State) (ans : Answer) (rest : List Event) (l : Label) (up : List Label) (i : Instr),
    s.cfg.valid = true → s.io.events = .ctrl ans :: rest → s.seq = l :: up →
    (if l.isTransport then i = s.work.arg.kind.instr s.work.arg.a s.work.arg.n
      else decode s.cfg (.hostWord (s.work.op.setWidth 32)) = .ok i) →
    step s = exec i { s with io := { s.io with events := rest, ans := ans } }

/-- While IDLE, CTRL has no step (R11, R225); with no event scheduled nothing changes (log 2); a configuration that
violates R6 is refused (R245). -/
def Obligations.StepWithoutAnInstruction : Prop :=
  ∀ s : State,
    (s.cfg.valid = false → step s = .refused .badConfig)
    ∧ (s.cfg.valid = true → s.io.events = [] → step s = .next s)
    ∧ (∀ ans rest, s.cfg.valid = true → s.io.events = .ctrl ans :: rest → s.seq = [] →
        step s = .next { s with io := { s.io with events := rest, ans := ans } })

/-- A write of `v` to `OPCMD` while idle latches the operands, clears DONE, RESULT and PROGRESS and puts CTRL at
`START.1`; nothing else changes (R165). -/
def Obligations.StartLatchesOperands : Prop :=
  ∀ (s : State) (v : Word) (rest : List Event),
    s.cfg.valid = true → s.seq = [] → s.io.events = .hostWrite s.cfg.regBase .word v :: rest →
    step s = .next { s with
      regs := { s.regs with opcmd := v.extractLsb' 0 4, done := false, result := 0, progress := 0 }
      work := { s.work with
        op := v.extractLsb' 0 4, a := s.regs.addr, n := s.regs.len, p := s.regs.bufptr, stage := 0 }
      seq := [.start1]
      io := { s.io with events := rest } }

/-- While an operation runs, a host write to any register changes nothing (R231, R232, R12). -/
def Obligations.WritesWhileBusyAreIgnored : Prop :=
  ∀ (s : State) (i : Nat) (v : Word) (rest : List Event),
    s.cfg.valid = true → s.seq ≠ [] → i < 16 → s.io.events = .hostWrite (s.cfg.regBase + 4 * i) .word v :: rest →
    step s = .next (s.afterEvents rest)

/-- While idle, ADDR, LEN and BUFPTR take all 32 bits written (R14 to R16), and writes to the twelve read-only registers
are ignored (R12). -/
def Obligations.OperandAndReadOnlyWrites : Prop :=
  ∀ (s : State) (i : Nat) (v : Word) (rest : List Event),
    s.cfg.valid = true → s.seq = [] → s.io.events = .hostWrite (s.cfg.regBase + 4 * i) .word v :: rest →
    (i = 1 → step s = .next { s with regs.addr := v, io.events := rest })
    ∧ (i = 2 → step s = .next { s with regs.len := v, io.events := rest })
    ∧ (i = 3 → step s = .next { s with regs.bufptr := v, io.events := rest })
    ∧ (4 ≤ i → i < 16 → step s = .next (s.afterEvents rest))

/-- A host read of register `i` shows its value (R12 to R22, with the bits of STAT of R17 and the codes of R20) and
changes nothing of the block (R46). -/
def Obligations.RegisterReadsHaveNoSideEffect : Prop :=
  ∀ (s : State) (i : Nat) (v : Word) (rest : List Event),
    s.cfg.valid = true → s.io.events = .hostRead (s.cfg.regBase + 4 * i) .word :: rest →
    [s.regs.opcmd.setWidth 32, s.regs.addr, s.regs.len, s.regs.bufptr,
      BitVec.ofNat 32 ((if s.seq = [] then 0 else 1) + 2 * s.regs.done.toNat + 4 * s.regs.inited.toNat
        + 16 * s.regs.rxh.toNat + 32 * s.regs.txh.toNat),
      s.regs.result, s.regs.progress,
      (if s.regs.statusOut = .ready then 0 else if s.regs.statusOut = .busy then 1
        else if s.regs.statusOut = .suspended then 2 else 3),
      s.regs.rxsig, s.regs.txsig, s.regs.info0, s.regs.info1, s.regs.info2, s.regs.info3, s.regs.info4,
      s.regs.info5][i]? = some v →
    step s = .next { s with io := { s.io with events := rest, busData := v } }

/-- A host access to the register file that is not an aligned word access at offset 0x00 to 0x3C is refused (R45 a). -/
def Obligations.BadRegisterAccessRefused : Prop :=
  ∀ (s : State) (addr : Nat) (w : Width) (v : Word) (rest : List Event),
    s.cfg.valid = true →
    (w ≠ .word ∨ addr < s.cfg.regBase ∨ (addr - s.cfg.regBase) % 4 ≠ 0 ∨ 0x3C < addr - s.cfg.regBase) →
    (s.io.events = .hostWrite addr w v :: rest ∨ s.io.events = .hostRead addr w :: rest) →
    step s = .refused .badRegAccess

/-- A host store of the bytes `d` at `a` inside `HB` writes exactly those bytes (R42); one that reaches beyond `HB_SIZE`
is refused. That `HB` stays canonical is the model's form (log 1). -/
def Obligations.BufferWrites : Prop :=
  ∀ (s : State) (a : Nat) (d : List Byte) (rest : List Event),
    s.cfg.valid = true → s.hb.wf = true → s.io.events = .hbWrite a d :: rest →
    (a + d.length ≤ s.cfg.hbSize →
      ∃ m, step s = .next { s with hb := m, io.events := rest } ∧ m.wf = true
        ∧ ∀ b, hbByte m b = if a ≤ b ∧ b < a + d.length then d.getD (b - a) 0 else hbByte s.hb b)
    ∧ (s.cfg.hbSize < a + d.length → step s = .refused .outsideHb)

/-- A host load of `n` bytes at `a` inside `HB` gives those bytes in address order and changes nothing (R41); one that
reaches beyond `HB_SIZE` is refused. -/
def Obligations.BufferReads : Prop :=
  ∀ (s : State) (a n : Nat) (rest : List Event),
    s.cfg.valid = true → s.io.events = .hbRead a n :: rest →
    (a + n ≤ s.cfg.hbSize →
      step s = .next { s with
        io := { s.io with events := rest, memData := (List.range n).map (fun i => hbByte s.hb (a + i)) } })
    ∧ (s.cfg.hbSize < a + n → step s = .refused .outsideHb)

/-- A tick lowers `TMR` by one if it is above 0, and changes nothing else, in every state (R212). -/
def Obligations.TickLowersTheTimer : Prop :=
  ∀ (s : State) (rest : List Event), s.cfg.valid = true → s.io.events = .tick :: rest →
    step s = .next { s with work.tmr := BitVec.ofNat 32 (s.work.tmr.toNat - 1), io.events := rest }

/-- Every callback, in every state, raises its signal by one up to 2^32 - 1 and changes nothing else of the block: no
register, not `SEQ`, no working register (R130). One that belongs to no transfer in flight, or whose data is not of its
transfer's length, changes nothing else at all (R126; log 8). -/
def Obligations.CallbackRaisesTheSignal : Prop :=
  ∀ (s : State) (rest : List Event), s.cfg.valid = true →
    (∀ done t, s.io.events = .cbRx done :: rest → step s = .next t →
      t.regs = s.rxRaised.regs ∧ t.seq = s.seq ∧ t.work = s.work ∧ t.cfg = s.cfg ∧ t.link.tx = s.link.tx
        ∧ t.link.sent = s.link.sent ∧ t.io = (s.afterEvents rest).io)
    ∧ (∀ done t, s.io.events = .cbTx done :: rest → step s = .next t →
      t.regs = s.txRaised.regs ∧ t.seq = s.seq ∧ t.work = s.work ∧ t.cfg = s.cfg ∧ t.hb = s.hb
        ∧ t.link.rx = s.link.rx ∧ t.io = (s.afterEvents rest).io)
    ∧ (s.io.events = .cbRx none :: rest → step s = .next (s.rxRaised.afterEvents rest))
    ∧ (s.io.events = .cbTx none :: rest → step s = .next (s.txRaised.afterEvents rest))
    ∧ (∀ k d, s.io.events = .cbRx (some (k, d)) :: rest →
      (∀ x, s.link.rx[k]? = some x → d.length ≠ x.len.toNat) → step s = .next (s.rxRaised.afterEvents rest))
    ∧ (∀ k, s.io.events = .cbTx (some k) :: rest → s.link.tx[k]? = none →
      step s = .next (s.txRaised.afterEvents rest))

/-- What the LINK does to `HB`. At the callback of an accepted receive it has stored the `n` received bytes at `ptr` and
nothing else in `HB`, and the signal is raised (R43, R130). Before the callback it may store any byte of the buffer, and
then exactly that one (R43), or give the transfer up (log 8). After a READ that ended with ERR_LINK it may leave any
byte of the buffer at any value (R170; log 23). An access outside `HB` is refused (R239, log 9), and with no such
byte nothing happens. That `HB` stays canonical is the model's form (log 1). -/
def Obligations.ReceiveCompletionStoresTheData : Prop :=
  ∀ (s : State) (rest : List Event), s.cfg.valid = true → s.hb.wf = true →
    (∀ k d t, s.io.events = .cbRx (some (k, d)) :: rest → s.link.rx[k]? = some t → d.length = t.len.toNat →
      (t.ptr.toNat + d.length ≤ s.cfg.hbSize →
        ∃ m, step s =
            .next (({ s with hb := m, link.rx := s.link.rx.eraseIdx k } : State).rxRaised.afterEvents rest)
          ∧ m.wf = true
          ∧ ∀ x, hbByte m x =
              if t.ptr.toNat ≤ x ∧ x < t.ptr.toNat + d.length then d.getD (x - t.ptr.toNat) 0 else hbByte s.hb x)
      ∧ (s.cfg.hbSize < t.ptr.toNat + d.length → step s = .refused .outsideHb))
    ∧ (∀ k i b, s.io.events = .linkStore k i b :: rest →
      (∀ t, s.link.rx[k]? = some t → i < t.len.toNat →
        (t.ptr.toNat + i < s.cfg.hbSize →
          ∃ m, step s = .next (({ s with hb := m } : State).afterEvents rest) ∧ m.wf = true
            ∧ ∀ x, hbByte m x = if x = t.ptr.toNat + i then b else hbByte s.hb x)
        ∧ (s.cfg.hbSize ≤ t.ptr.toNat + i → step s = .refused .outsideHb))
      ∧ ((∀ t, s.link.rx[k]? = some t → t.len.toNat ≤ i) → step s = .next (s.afterEvents rest)))
    ∧ (∀ k, s.io.events = .linkDropRx k :: rest →
      step s = .next (({ s with link.rx := s.link.rx.eraseIdx k } : State).afterEvents rest))
    ∧ (∀ i b, s.io.events = .linkResidue i b :: rest →
      (readFailed s = true → i < s.work.arg.n.toNat →
        (s.work.arg.ptr.toNat + i < s.cfg.hbSize →
          ∃ m, step s = .next (({ s with hb := m } : State).afterEvents rest) ∧ m.wf = true
            ∧ ∀ x, hbByte m x = if x = s.work.arg.ptr.toNat + i then b else hbByte s.hb x)
        ∧ (s.cfg.hbSize ≤ s.work.arg.ptr.toNat + i → step s = .refused .outsideHb))
      ∧ (readFailed s = false ∨ s.work.arg.n.toNat ≤ i → step s = .next (s.afterEvents rest)))

/-- What the LINK does with the buffer of a transmit. Before the callback it may read any byte of the buffer, which takes
the value that byte has then, or give the transfer up (R43; log 8). At the callback it has sent `n` bytes in address order,
each the value it took last or, if it took none, the present one, and the signal is raised (R43, R130). `HB` does not
change. An access outside `HB` is refused (R239, log 9), and with no such byte nothing happens. -/
def Obligations.TransmitCompletionSendsTheBuffer : Prop :=
  ∀ (s : State) (rest : List Event), s.cfg.valid = true →
    (∀ k t, s.io.events = .cbTx (some k) :: rest → s.link.tx[k]? = some t →
      (t.ptr.toNat + t.len.toNat ≤ s.cfg.hbSize →
        step s = .next (({ s with
          link := { s.link with
            tx := s.link.tx.eraseIdx k
            sent := (List.range t.len.toNat).map (fun i =>
              match t.taken.find? (fun x => x.1 == i) with
              | some x => x.2
              | none => hbByte s.hb (t.ptr.toNat + i)) :: s.link.sent } } : State).txRaised.afterEvents rest))
      ∧ (s.cfg.hbSize < t.ptr.toNat + t.len.toNat → step s = .refused .outsideHb))
    ∧ (∀ k i, s.io.events = .linkFetch k i :: rest →
      (∀ t, s.link.tx[k]? = some t → i < t.len.toNat →
        (t.ptr.toNat + i < s.cfg.hbSize →
          step s = .next (({ s with
            link.tx := s.link.tx.set k ⟨t.ptr, t.len, (i, hbByte s.hb (t.ptr.toNat + i)) :: t.taken⟩ } :
              State).afterEvents rest))
        ∧ (s.cfg.hbSize ≤ t.ptr.toNat + i → step s = .refused .outsideHb))
      ∧ ((∀ t, s.link.tx[k]? = some t → t.len.toNat ≤ i) → step s = .next (s.afterEvents rest)))
    ∧ (∀ k, s.io.events = .linkDropTx k :: rest →
      step s = .next (({ s with link.tx := s.link.tx.eraseIdx k } : State).afterEvents rest))

/-- The reset input sets every register, `SEQ` and every working register to its reset value, in every state (R225), and
leaves the configuration, `HB` and the link as they are (R227); that the schedule and the ports of `io` stay is the
model's choice (log 22). -/
def Obligations.ResetEvent : Prop :=
  ∀ (s : State) (rest : List Event), s.cfg.valid = true → s.io.events = .rst :: rest →
    ∃ t, step s = .next t ∧ ResetValues t ∧ t.cfg = s.cfg ∧ t.hb = s.hb ∧ t.link = s.link
      ∧ t.io = { s.io with events := rest }

/-- The machine right after reset has the reset values of R35. -/
def Obligations.ResetStateValues : Prop :=
  ResetValues State.reset

/-! ### The host operations -/

/-- START.1 of every operation: BadOpError, UninitError and UnsupportedGeometryError in this order, else the first label
(R166, R73, R203, R200). -/
def Obligations.StartChecks : Prop :=
  ∀ s : State,
    (∀ i ∈ [Instr.reserved0, .reservedC, .reservedD, .reservedE, .reservedF],
      exec i (s.at [.start1]) = .next (s.endedWith 6 s.work.stage.toNat 0))
    ∧ exec .init (s.at [.start1]) = .next (s.at [.in1])
    ∧ exec .getInfo (s.at [.start1]) = .next (s.at [.gi1])
    ∧ (∀ x ∈ [(Instr.eraseChip, Label.ec1), (.getStatus, .gst1), (.suspendErase, .su1), (.resumeErase, .rs1),
        (.enterLowPower, .le1), (.leaveLowPower, .ll1)],
      exec x.1 (s.at [.start1]) =
        .next (if s.regs.inited = false then s.endedWith 5 s.work.stage.toNat 0 else s.at [x.2]))
    ∧ (∀ x ∈ [(Instr.read, Label.rd1), (.write, .wr1)],
      exec x.1 (s.at [.start1]) =
        .next (if s.regs.inited = false then s.endedWith 5 s.work.stage.toNat 0
          else if s.cfg.capacity < s.work.a.toNat + s.work.n.toNat then s.endedWith 4 s.work.stage.toNat 0
          else s.at [x.2]))
    ∧ exec .eraseBlock (s.at [.start1]) =
        .next (if s.regs.inited = false then s.endedWith 5 s.work.stage.toNat 0
          else if s.cfg.capacity / s.cfg.blockSize ≤ s.work.a.toNat then s.endedWith 4 s.work.stage.toNat 0
          else s.at [.eb1])

/-- The labelled steps of INIT, each with all it changes (R168); what follows a register read in `IN.3`, `IN.7`, `IN.8`,
`IN.9` and `IN.13` is in `RegisterReadsReturn`. -/
def Obligations.InitSteps : Prop :=
  ∀ s : State,
    (∀ b, s.io.ans = .ok b →
      exec .init (s.at [.in1]) =
        .next ((({ s with regs.inited := false, work.stage := 1 } : State).traced (.reset true)).at [.in2]))
    ∧ exec .init (s.at [.in2]) = .next (s.at [.poll1, .in2])
    ∧ exec .init (s.at [.in3]) = .next (({ s with work.stage := 2 } : State).issuing [.in3] .rdStatus 0 0 0)
    ∧ exec .init (s.at [.in4]) = .next (s.at [.wren1, .in4])
    ∧ exec .init (s.at [.in5]) =
        .next (({ s with work.regbuf.b0 := s.work.srT ||| s.cfg.srWideEn } : State).issuing [.in5] .wrCfg 0 1 0)
    ∧ exec .init (s.at [.in6]) = .next (s.at [.poll1, .in6])
    ∧ exec .init (s.at [.in7]) = .next (s.issuing [.in7] .rdStatus 0 0 0)
    ∧ exec .init (s.at [.in8]) = .next (({ s with work.stage := 3 } : State).issuing [.in8] .rdStatus 0 0 0)
    ∧ exec .init (s.at [.in9]) = .next (s.issuing [.in9] .rdCfg 0 0 0)
    ∧ exec .init (s.at [.in10]) = .next (s.at [.wren1, .in10])
    ∧ (∃ r : Bytes4,
      exec .init (s.at [.in11]) =
        .next (({ s with work.regbuf := r } : State).issuing [.in11] .wrCfg 0 (BitVec.ofNat 32 (1 + s.cfg.cfgLen)) 0)
      ∧ r.get 0 = s.work.srT
      ∧ ∀ j < 3, r.get (j + 1) =
          if j < s.cfg.cfgLen then
            (if j = s.cfg.cfgHpByte then s.work.cfgT.get j ||| s.cfg.cfgHpMask else s.work.cfgT.get j)
          else s.work.regbuf.get (j + 1))
    ∧ exec .init (s.at [.in12]) = .next (s.at [.poll1, .in12])
    ∧ exec .init (s.at [.in13]) = .next (s.issuing [.in13] .rdCfg 0 0 0)
    ∧ exec .init (s.at [.in14]) =
        .next (({ s with regs := { s.regs with rxsig := 0, txsig := 0, inited := true } } : State).endedWith 0 0 0)

/-- GET_INFO shows the geometry and the three time-outs and ends with OK (R169). A geometry value that does not fit its
register shows a value nothing is said of (log 7). -/
def Obligations.GetInfoLatchesTheGeometry : Prop :=
  ∀ s : State, ∃ w0 w1 w2 : Word,
    exec .getInfo (s.at [.gi1]) =
      .next (({ s with
        regs := { s.regs with
          info0 := w0, info1 := w1, info2 := w2
          info3 := s.cfg.tCmd, info4 := s.cfg.tBlockErase, info5 := s.cfg.tChipErase }
        io.draws := s.io.draws + 3 } : State).endedWith 0 0 0)
    ∧ (s.cfg.capacity < 2 ^ 32 → w0.toNat = s.cfg.capacity)
    ∧ (s.cfg.pageSize < 2 ^ 32 → w1.toNat = s.cfg.pageSize)
    ∧ (s.cfg.blockSize < 2 ^ 32 → w2.toNat = s.cfg.blockSize)

/-- The labelled steps of READ (R170). -/
def Obligations.ReadSteps : Prop :=
  ∀ s : State,
    exec .read (s.at [.rd1]) = .next (if s.work.n = 0 then s.at [.rd3] else s.at [.rd2])
    ∧ exec .read (s.at [.rd2]) = .next (s.issuing [.rd2] .readArray s.work.a s.work.n s.work.p)
    ∧ exec .read (s.at [.rd3]) = .next (s.endedWith 0 0 0)

/-- The labelled steps of WRITE (R157) with the chunk sizes of R156; `p + off` is formed modulo 2^32 (R159), and `cur`
wraps to 0 after a last chunk that ends at 2^32 (R159; DEDUCED, log 19). -/
def Obligations.WriteSteps : Prop :=
  ∀ s : State,
    exec .write (s.at [.wr1]) =
      .next (({ s with
        regs.progress := 0
        work := { s.work with
          cur := s.work.a, off := 0
          chunk := BitVec.ofNat 32
            (min (s.cfg.pageSize - s.work.a.toNat % s.cfg.pageSize) s.work.n.toNat) } } : State).at
        (if s.work.n = 0 then [.wr6] else [.wr2]))
    ∧ exec .write (s.at [.wr2]) = .next (s.at [.wren1, .wr2])
    ∧ exec .write (s.at [.wr3]) =
        .next (s.issuing [.wr3] .pageProgram s.work.cur s.work.chunk (s.work.p + s.work.off))
    ∧ exec .write (s.at [.wr4]) = .next (s.at [.poll1, .wr4])
    ∧ exec .write (s.at [.wr5]) =
        .next (({ s with
          regs.progress := s.work.off + s.work.chunk
          work := { s.work with
            cur := s.work.cur + s.work.chunk, off := s.work.off + s.work.chunk
            chunk := BitVec.ofNat 32
              (min s.cfg.pageSize (s.work.n.toNat - (s.work.off + s.work.chunk).toNat)) } } : State).at
          (if s.work.off + s.work.chunk = s.work.n then [.wr6] else [.wr2]))
    ∧ exec .write (s.at [.wr6]) = .next (s.endedWith 0 0 0)

/-- The labelled steps of ERASE_BLOCK (R172) and ERASE_CHIP (R173). -/
def Obligations.EraseSteps : Prop :=
  ∀ s : State,
    exec .eraseBlock (s.at [.eb1]) = .next (s.at [.wren1, .eb1])
    ∧ exec .eraseBlock (s.at [.eb2]) =
        .next (s.issuing [.eb2] .eraseBlock (BitVec.ofNat 32 (s.work.a.toNat * s.cfg.blockSize)) 0 0)
    ∧ exec .eraseBlock (s.at [.eb3]) = .next (s.at [.poll1, .eb3])
    ∧ exec .eraseBlock (s.at [.eb4]) = .next (s.endedWith 0 0 0)
    ∧ exec .eraseChip (s.at [.ec1]) = .next (s.at [.wren1, .ec1])
    ∧ exec .eraseChip (s.at [.ec2]) = .next (s.issuing [.ec2] .chipErase 0 0 0)
    ∧ exec .eraseChip (s.at [.ec3]) = .next (s.at [.poll1, .ec3])
    ∧ exec .eraseChip (s.at [.ec4]) = .next (s.endedWith 0 0 0)

/-- The labelled steps of GET_STATUS (R174) and of the `GetStatus` subroutine inside the three operations that call it
(R148). -/
def Obligations.GetStatusSteps : Prop :=
  ∀ s : State,
    exec .getStatus (s.at [.gst1]) = .next (s.at [.gs1, .gst1])
    ∧ exec .getStatus (s.at [.gst2]) = .next (s.endedWith 0 0 0)
    ∧ (∀ i ∈ [Instr.getStatus, .suspendErase, .resumeErase], ∀ up,
      exec i (s.at (.gs1 :: up)) = .next (s.issuing (.gs1 :: up) .rdSecurity 0 0 0)
      ∧ exec i (s.at (.gs2 :: up)) = .next (s.issuing (.gs2 :: up) .rdStatus 0 0 0))
    ∧ (∀ x ∈ [(Instr.getStatus, Label.gst1, Label.gst2), (.suspendErase, .su1, .su2), (.resumeErase, .rs1, .rs2)],
      exec x.1 (s.at [.gs3, x.2.1]) =
        .next (({ s with
          regs.statusOut := classify (statusFlags s.cfg s.work.srT s.work.secT)
          work := { s.work with
            sf := statusFlags s.cfg s.work.srT s.work.secT
            gsT := classify (statusFlags s.cfg s.work.srT s.work.secT) } } : State).at [x.2.2]))

/-- The labelled steps of SUSPEND_ERASE (R175) and RESUME_ERASE (R176), with the no-op of R199. -/
def Obligations.SuspendResumeSteps : Prop :=
  ∀ s : State,
    exec .suspendErase (s.at [.su1]) = .next (s.at [.gs1, .su1])
    ∧ exec .suspendErase (s.at [.su2]) =
        .next (if s.work.gsT = .busy then s.issuing [.su2] .suspend 0 0 0 else s.endedWith 0 0 1)
    ∧ exec .resumeErase (s.at [.rs1]) = .next (s.at [.gs1, .rs1])
    ∧ exec .resumeErase (s.at [.rs2]) =
        .next (if s.work.gsT = .suspended then s.issuing [.rs2] .resume 0 0 0 else s.endedWith 0 0 1)

/-- The labelled steps of ENTER_LOW_POWER (R177) and LEAVE_LOW_POWER (R178). -/
def Obligations.LowPowerSteps : Prop :=
  ∀ s : State,
    exec .enterLowPower (s.at [.le1]) = .next (s.issuing [.le1] .lpEnter 0 0 0)
    ∧ exec .enterLowPower (s.at [.le2]) = .next (s.endedWith 0 0 0)
    ∧ exec .leaveLowPower (s.at [.ll1]) = .next (s.issuing [.ll1] .lpExit 0 0 0)
    ∧ exec .leaveLowPower (s.at [.ll2]) = .next (s.endedWith 0 0 0)

/-- The labelled steps of `PollUntil` (R142) inside the four operations that poll, with mask, match and time-out of each
caller (R144): a matching byte returns, also when the timer has expired; without a match an expired timer raises
TimeoutError, else the status is read again. -/
def Obligations.PollUntilSteps : Prop :=
  ∀ i ∈ [Instr.init, .write, .eraseBlock, .eraseChip], ∀ (s : State) (up : List Label),
    (∀ x ∈ [(Label.wren2, s.cfg.srWel, s.cfg.srWel, s.cfg.tCmd), (.wr4, s.cfg.srWip, 0, s.cfg.tCmd),
        (.in2, s.cfg.srWip, 0, s.cfg.tCmd), (.in6, s.cfg.srWip, 0, s.cfg.tCmd), (.in12, s.cfg.srWip, 0, s.cfg.tCmd),
        (.eb3, s.cfg.srWip, 0, s.cfg.tBlockErase), (.ec3, s.cfg.srWip, 0, s.cfg.tChipErase)],
      exec i (s.at (.poll1 :: x.1 :: up)) =
        .next (({ s with
          work := { s.work with pmask := x.2.1, pmatch := x.2.2.1, tmr := x.2.2.2 } } : State).at
            (.poll2 :: x.1 :: up)))
    ∧ exec i (s.at (.poll2 :: up)) = .next (s.issuing (.poll2 :: up) .rdStatus 0 0 0)
    ∧ (s.work.regbuf.b0 &&& s.work.pmask = s.work.pmatch →
      ∀ x ∈ [(Label.in2, Label.in3), (.in6, .in7), (.in12, .in13), (.wr4, .wr5), (.eb3, .eb4), (.ec3, .ec4)],
        exec i (s.at (.poll3 :: x.1 :: up)) = .next (s.at (x.2 :: up)))
    ∧ (s.work.regbuf.b0 &&& s.work.pmask ≠ s.work.pmatch →
      exec i (s.at (.poll3 :: up)) =
        .next (if s.work.tmr = 0 then s.endedWith 2 s.work.stage.toNat 0 else s.at (.poll2 :: up)))

/-- The labelled steps of `WREN` (R146): the write-enable command, the confirmation poll, and the return to the step
after the caller's as soon as the latch reads set; that `WREN.2` returns in the step in which `POLL.3` does is DEDUCED
(log 4). -/
def Obligations.WriteEnableSteps : Prop :=
  ∀ i ∈ [Instr.init, .write, .eraseBlock, .eraseChip], ∀ (s : State) (up : List Label),
    exec i (s.at (.wren1 :: up)) = .next (s.issuing (.wren1 :: up) .writeEnable 0 0 0)
    ∧ exec i (s.at (.wren2 :: up)) = .next (s.at (.poll1 :: .wren2 :: up))
    ∧ (s.work.regbuf.b0 &&& s.work.pmask = s.work.pmatch →
      ∀ x ∈ [(Label.in4, Label.in5), (.in10, .in11), (.wr2, .wr3), (.eb1, .eb2), (.ec1, .ec2)],
        exec i (s.at (.poll3 :: .wren2 :: x.1 :: up)) = .next (s.at (x.2 :: up)))

/-- StatusFlags (R140) and the classification of the chip (R141). -/
def Obligations.FlagsAndClass : Prop :=
  (∀ (c : Config) (sr sec : Byte),
    (statusFlags c sr sec).getLsbD 0 = (sr &&& c.srWip != 0)
    ∧ (statusFlags c sr sec).getLsbD 1 = (sr &&& c.srWel != 0)
    ∧ (statusFlags c sr sec).getLsbD 2 = (sec &&& c.secPfail != 0)
    ∧ (statusFlags c sr sec).getLsbD 3 = (sec &&& c.secEfail != 0)
    ∧ (statusFlags c sr sec).getLsbD 4 = (sec &&& c.secPsusp != 0)
    ∧ (statusFlags c sr sec).getLsbD 5 = (sec &&& c.secEsusp != 0))
  ∧ ∀ sf : BitVec 6,
    (sf.getLsbD 2 = true ∨ sf.getLsbD 3 = true → classify sf = .failed)
    ∧ (sf.getLsbD 2 = false ∧ sf.getLsbD 3 = false ∧ (sf.getLsbD 4 = true ∨ sf.getLsbD 5 = true) →
      classify sf = .suspended)
    ∧ (sf.getLsbD 2 = false ∧ sf.getLsbD 3 = false ∧ sf.getLsbD 4 = false ∧ sf.getLsbD 5 = false →
      classify sf = if sf.getLsbD 0 then .busy else .ready)

/-- The range checks (R167), the sum formed without wrap-around, with the rule's examples. -/
def Obligations.RangeChecks : Prop :=
  (∀ (c : Config) (a n : Word),
    (rangeOk c a n = true ↔ a.toNat + n.toNat ≤ c.capacity)
    ∧ (blockOk c a = true ↔ a.toNat < c.capacity / c.blockSize))
  ∧ (∀ c : Config, c.capacity + 1 < 2 ^ 32 →
    rangeOk c (BitVec.ofNat 32 c.capacity) 0 = true ∧ rangeOk c (BitVec.ofNat 32 (c.capacity + 1)) 0 = false)
  ∧ (∀ c : Config, c.capacity ≤ 2 ^ 32 → rangeOk c 0xFFFFFFFF 2 = false)
  ∧ rangeOk Config.pQuad 0x7FFFFF 1 = true ∧ rangeOk Config.pQuad 0x7FFFFF 2 = false
  ∧ blockOk Config.pQuad 127 = true ∧ blockOk Config.pQuad 128 = false

/-! ### The link commands -/

/-- A command without a data phase is complete when the link accepts it: `CMD` holds its descriptor and the caller goes
to its next step; SUSPEND_ERASE and RESUME_ERASE end with OK (R127, R97 to R101, R103, R104, R175, R176), in the same
step (DEDUCED, log 4). `K_MEMMAP_CFG`, which no operation issues, returns to IDLE (log 12, 15). -/
def Obligations.DatalessCommands : Prop :=
  ∀ (s : State) (b : Bytes4), s.io.ans = .ok b →
    (∀ up, exec .kWriteEnable (s.at (.issue1 :: .wren1 :: up)) =
      .next ((s.sent .writeEnable (instructionOnly s.cfg s.cfg.opcWriteEnable) true).at (.wren2 :: up)))
    ∧ (∀ a, exec (.kEraseBlock a) (s.at [.issue1, .eb2]) =
      .next ((s.sent .eraseBlock (blockErase s.cfg a) true).at [.eb3]))
    ∧ exec .kChipErase (s.at [.issue1, .ec2]) =
      .next ((s.sent .chipErase (instructionOnly s.cfg s.cfg.opcChipErase) true).at [.ec3])
    ∧ exec .kLpEnter (s.at [.issue1, .le1]) =
      .next ((s.sent .lpEnter (instructionOnly s.cfg s.cfg.opcLpEnter) true).at [.le2])
    ∧ exec .kLpExit (s.at [.issue1, .ll1]) =
      .next ((s.sent .lpExit (instructionOnly s.cfg s.cfg.opcLpExit) true).at [.ll2])
    ∧ exec .kSuspend (s.at [.issue1, .su2]) =
      .next ((s.sent .suspend (instructionOnly s.cfg s.cfg.opcSuspend) true).endedWith 0 0 0)
    ∧ exec .kResume (s.at [.issue1, .rs2]) =
      .next ((s.sent .resume (instructionOnly s.cfg s.cfg.opcResume) true).endedWith 0 0 0)
    ∧ exec .kMemmapCfg (s.at [.issue1]) = .next ((s.sent .memmapCfg (arrayRead s.cfg 0 0) true).at [])

/-- A command with a data phase that the link accepts goes to `ISSUE.2`, `CMD` holding its descriptor (R127, R91 to
R96). -/
def Obligations.DataCommandsAreSent : Prop :=
  ∀ (s : State) (b : Bytes4) (up : List Label) (a n : Word), s.io.ans = .ok b →
    exec .kRdStatus (s.at (.issue1 :: up)) =
      .next ((s.sent .rdStatus (registerTransfer s.cfg s.cfg.opcRdStatus .rx 1) true).at (.issue2 :: up))
    ∧ exec .kRdSecurity (s.at (.issue1 :: up)) =
      .next ((s.sent .rdSecurity (registerTransfer s.cfg s.cfg.opcRdSecurity .rx 1) true).at (.issue2 :: up))
    ∧ exec .kRdCfg (s.at (.issue1 :: up)) =
      .next ((s.sent .rdCfg
        (registerTransfer s.cfg s.cfg.opcRdCfg .rx (BitVec.ofNat 32 s.cfg.cfgLen)) true).at (.issue2 :: up))
    ∧ exec (.kWrCfg n) (s.at (.issue1 :: up)) =
      .next ((s.sent .wrCfg (registerTransfer s.cfg s.cfg.opcWrCfg .tx n) true).at (.issue2 :: up))
    ∧ exec (.kReadArray a n) (s.at (.issue1 :: up)) =
      .next ((s.sent .readArray (arrayRead s.cfg a n) true).at (.issue2 :: up))
    ∧ exec (.kPageProgram a n) (s.at (.issue1 :: up)) =
      .next ((s.sent .pageProgram (arrayProgram s.cfg a n) true).at (.issue2 :: up))

/-- A register read whose bytes the link delivers puts them in `REGBUF`, first byte first, and returns to its caller,
which does with them what its lines say: `POLL.2`, `GS.1`, `GS.2` (R142, R148), `IN.3`, `IN.8`, `IN.9` keep them, `IN.7`
and `IN.13` verify one mode bit or raise VerificationError (R168, R198). That they do so in the step in which `Issue`
returns is DEDUCED (log 4). -/
def Obligations.RegisterReadsReturn : Prop :=
  ∀ (s : State) (b r : Bytes4) (q : Bytes3) (up : List Label) (n : Nat), s.io.ans = .ok b → n = s.work.cmd.dlen.toNat →
    (∀ j < 4, r.get j = if j < n then b.get j else s.work.regbuf.get j) →
    (∀ j < 3, q.get j = if j < s.cfg.cfgLen then r.get j else s.work.cfgT.get j) →
    ∀ t : State,
      t = ({ s with work.regbuf := r } : State).traced
        (.rxb s.work.cmd.dlen s.cfg.tBlocking (some ([b.b0, b.b1, b.b2, b.b3].take n))) →
    exec .kRdStatus (s.at (.issue2 :: .poll2 :: up)) = .next (t.at (.poll3 :: up))
    ∧ exec .kRdSecurity (s.at (.issue2 :: .gs1 :: up)) =
      .next (({ t with work.secT := r.b0 } : State).at (.gs2 :: up))
    ∧ exec .kRdStatus (s.at (.issue2 :: .gs2 :: up)) = .next (({ t with work.srT := r.b0 } : State).at (.gs3 :: up))
    ∧ exec .kRdStatus (s.at [.issue2, .in3]) = .next (({ t with work.srT := r.b0 } : State).at [.in4])
    ∧ exec .kRdStatus (s.at [.issue2, .in7]) =
      .next (if r.b0 &&& s.cfg.srWideEn = 0 then t.endedWith 3 s.work.stage.toNat 0 else t.at [.in8])
    ∧ exec .kRdStatus (s.at [.issue2, .in8]) = .next (({ t with work.srT := r.b0 } : State).at [.in9])
    ∧ exec .kRdCfg (s.at [.issue2, .in9]) = .next (({ t with work.cfgT := q } : State).at [.in10])
    ∧ exec .kRdCfg (s.at [.issue2, .in13]) =
      .next (if r.get s.cfg.cfgHpByte &&& s.cfg.cfgHpMask = 0 then t.endedWith 3 s.work.stage.toNat 0
        else t.at [.in14])

/-- A register write hands `REGBUF[0 .. CMD.dlen-1]` to the link and, accepted, returns to its caller (R127, R94). -/
def Obligations.RegisterWriteReturns : Prop :=
  ∀ (s : State) (b : Bytes4) (n : Word), s.io.ans = .ok b →
    ∀ t : State,
      t = s.traced (.txb
        ([s.work.regbuf.b0, s.work.regbuf.b1, s.work.regbuf.b2, s.work.regbuf.b3].take s.work.cmd.dlen.toNat)
        s.cfg.tBlocking true) →
    exec (.kWrCfg n) (s.at [.issue2, .in5]) = .next (t.at [.in6])
    ∧ exec (.kWrCfg n) (s.at [.issue2, .in11]) = .next (t.at [.in12])

/-- The data phase of a read-array command: the handle is taken and the transfer is in flight; `WaitFor(RXSIG, T_XFER)`
consumes one signal, else times out at `TMR = 0`, else has no step; then the handle is released and the command returns
or raises TimeoutError (R127, R129, R131). That `w` of `ISSUE.3` is set in `WAIT.2`'s step is DEDUCED (log 4); the list
`link.rx` (log 8) and the stutter of a `WAIT.2` that is not enabled (log 2) are the model's. -/
def Obligations.ReadArrayTransfer : Prop :=
  ∀ (s : State) (a n : Word) (up : List Label),
    (∀ b, s.io.ans = .ok b →
      exec (.kReadArray a n) (s.at (.issue2 :: up)) =
        .next ((({ s with
          regs.rxh := true
          link.rx := s.link.rx ++ [⟨s.work.arg.ptr, s.work.cmd.dlen⟩] } : State).traced
            (.rxa s.work.arg.ptr s.work.cmd.dlen true)).at (.issue3 :: up)))
    ∧ exec (.kReadArray a n) (s.at (.issue3 :: up)) = .next (s.at (.wait1 :: .issue3 :: up))
    ∧ exec (.kReadArray a n) (s.at (.wait1 :: up)) = .next (({ s with work.tmr := s.cfg.tXfer } : State).at (.wait2 :: up))
    ∧ exec (.kReadArray a n) (s.at (.wait2 :: .issue3 :: up)) =
      .next (if s.regs.rxsig ≠ 0 then
          ({ s with regs.rxsig := s.regs.rxsig - 1, work.waited := .ok } : State).at (.issue4 :: up)
        else if s.work.tmr = 0 then ({ s with work.waited := .timeout } : State).at (.issue4 :: up)
        else s.at (.wait2 :: .issue3 :: up))
    ∧ exec (.kReadArray a n) (s.at [.issue4, .rd2]) =
      .next (if s.work.waited = .timeout then
          ({ s with regs.rxh := false } : State).endedWith 2 s.work.stage.toNat 0
        else ({ s with regs.rxh := false } : State).at [.rd3])

/-- The data phase of a page-program command, as that of a read with the transmit side (R127, R129, R131). That `w` of
`ISSUE.3` is set in `WAIT.2`'s step is DEDUCED (log 4); the list `link.tx` (log 8) and the stutter of a `WAIT.2` that is
not enabled (log 2) are the model's. -/
def Obligations.PageProgramTransfer : Prop :=
  ∀ (s : State) (a n : Word) (up : List Label),
    (∀ b, s.io.ans = .ok b →
      exec (.kPageProgram a n) (s.at (.issue2 :: up)) =
        .next ((({ s with
          regs.txh := true
          link.tx := s.link.tx ++ [⟨s.work.arg.ptr, s.work.cmd.dlen, []⟩] } : State).traced
            (.txa s.work.arg.ptr s.work.cmd.dlen true)).at (.issue3 :: up)))
    ∧ exec (.kPageProgram a n) (s.at (.issue3 :: up)) = .next (s.at (.wait1 :: .issue3 :: up))
    ∧ exec (.kPageProgram a n) (s.at (.wait1 :: up)) =
      .next (({ s with work.tmr := s.cfg.tXfer } : State).at (.wait2 :: up))
    ∧ exec (.kPageProgram a n) (s.at (.wait2 :: .issue3 :: up)) =
      .next (if s.regs.txsig ≠ 0 then
          ({ s with regs.txsig := s.regs.txsig - 1, work.waited := .ok } : State).at (.issue4 :: up)
        else if s.work.tmr = 0 then ({ s with work.waited := .timeout } : State).at (.issue4 :: up)
        else s.at (.wait2 :: .issue3 :: up))
    ∧ exec (.kPageProgram a n) (s.at [.issue4, .wr3]) =
      .next (if s.work.waited = .timeout then
          ({ s with regs.txh := false } : State).endedWith 2 s.work.stage.toNat 0
        else ({ s with regs.txh := false } : State).at [.wr4])

/-- The first `error` answer of the link, to any primitive, ends the operation with LinkError and the stage of R28; no
data primitive follows a refused command (R196, R202, R127, R168). -/
def Obligations.LinkErrorsEndTheOperation : Prop :=
  ∀ s : State, s.io.ans = .error →
    exec .init (s.at [.in1]) =
      .next ((({ s with regs.inited := false, work.stage := 1 } : State).traced (.reset false)).endedWith 1 1 0)
    ∧ ∀ (i : Instr) (k : Kind) (a n : Word) (up : List Label), i.linkArgs = some (k, a, n) →
      exec i (s.at (.issue1 :: up)) = .next ((s.sent k (encodeCmd s.cfg k a n) false).endedWith 1 s.work.stage.toNat 0)
      ∧ (k.style = .blkRx → exec i (s.at (.issue2 :: up)) =
        .next ((s.traced (.rxb s.work.cmd.dlen s.cfg.tBlocking none)).endedWith 1 s.work.stage.toNat 0))
      ∧ (k.style = .blkTx → exec i (s.at (.issue2 :: up)) =
        .next ((s.traced (.txb
          ([s.work.regbuf.b0, s.work.regbuf.b1, s.work.regbuf.b2, s.work.regbuf.b3].take s.work.cmd.dlen.toNat)
          s.cfg.tBlocking false)).endedWith 1 s.work.stage.toNat 0))
      ∧ (k.style = .asyncRx → exec i (s.at (.issue2 :: up)) =
        .next ((s.traced (.rxa s.work.arg.ptr s.work.cmd.dlen false)).endedWith 1 s.work.stage.toNat 0))
      ∧ (k.style = .asyncTx → exec i (s.at (.issue2 :: up)) =
        .next ((s.traced (.txa s.work.arg.ptr s.work.cmd.dlen false)).endedWith 1 s.work.stage.toNat 0))

/-! ### The chunks of a write -/

/-- No chunk is empty or crosses a page boundary; every later chunk starts on a page, and every chunk but the first and
the last is a whole page (R160). -/
def Obligations.ChunksStayInsidePages : Prop :=
  ∀ (c : Config) (a n i : Nat) (x : Chunk), 1 ≤ c.pageSize → (chunks c a n)[i]? = some x →
    1 ≤ x.len ∧ x.addr / c.pageSize = (x.addr + x.len - 1) / c.pageSize
    ∧ (1 ≤ i → x.addr % c.pageSize = 0)
    ∧ (1 ≤ i → i + 1 < (chunks c a n).length → x.len = c.pageSize)

/-- The chunks cover `[a, a+n)` in order without overlap or gap, and there are as many as the range touches pages
(R158, R161). -/
def Obligations.ChunksCoverExactly : Prop :=
  ∀ (c : Config) (a n : Nat), 1 ≤ c.pageSize →
    ((chunks c a n).map Chunk.len).sum = n
    ∧ (∀ i x, (chunks c a n)[i]? = some x →
      x.addr = a + x.off ∧ x.off = (((chunks c a n).take i).map Chunk.len).sum)
    ∧ (chunks c a n).length = (if n = 0 then 0 else (a % c.pageSize + n + c.pageSize - 1) / c.pageSize)

/-! ### Invariants of every step -/

/-- CTRL stays where a micro-program can be, the pending command being the one its caller names (R11). -/
def Obligations.LegalSequencerKept : Prop :=
  ∀ s t : State, ControlOk s → step s = .next t → ControlOk t

/-- From a legal sequencer position (R11) no step ends in the model's own fault (log 17). -/
def Obligations.NoFaultFromALegalPosition : Prop :=
  ∀ (s : State) (r : Fault), ControlOk s → step s ≠ .fault r

/-- The transfer handles are held exactly while an accepted transfer of their direction is waited for (R129), so neither
is held while the block is idle (R17). -/
def Obligations.HandlesKept : Prop :=
  ∀ s t : State, ControlOk s → HandlesOk s → step s = .next t →
    HandlesOk t ∧ (t.seq = [] → t.regs.rxh = false ∧ t.regs.txh = false)

/-- `HB` keeps the model's canonical form (log 1) and lists no address outside the space (R40, R42), and no step changes
the configuration (R6). -/
def Obligations.BufferStaysCanonical : Prop :=
  ∀ s t : State, HbOk s → step s = .next t → HbOk t ∧ t.cfg = s.cfg

/-- Every operation ends with a result that the table of R206 admits for it, with the stage of R18 and R28, and DONE is 0
while one runs (R17). -/
def Obligations.ResultTableKept : Prop :=
  ∀ s t : State, ControlOk s → StageOk s → DoneOk s → ResultOk s → step s = .next t →
    StageOk t ∧ DoneOk t ∧ ResultOk t

/-- From the step after `IN.1` on, a running INIT has `INITED` = 0; a completed one leaves it at 1 exactly if the result
is OK, so a failed INIT leaves the block uninitialised (R168, R207). -/
def Obligations.FailedInitLeavesUninitialised : Prop :=
  ∀ s t : State, ControlOk s → DoneOk s → InitedOk s → step s = .next t → InitedOk t

/-- No page-program command ever sent crosses a page boundary, is empty or leaves the capacity, whatever the link answers
and however the agents interleave (R160, R157, R159). -/
def Obligations.ProgramCommandsStayInsidePages : Prop :=
  ∀ s t : State, ControlOk s → WriteOk s → ProgramsInsidePages s → step s = .next t →
    WriteOk t ∧ ProgramsInsidePages t

/-- Every page-program, erase and register-write command is sent right after a write-enable command and the status reads
that confirm the latch, with no other primitive in between (R146, R235). -/
def Obligations.WriteEnableImmediatelyBefore : Prop :=
  ∀ s t : State, ControlOk s → latchPhase s → latchBeforeEach s.cfg s.io.trace = true → step s = .next t →
    latchPhase t ∧ latchBeforeEach t.cfg t.io.trace = true

/-- With a well-behaved link and without the hazards of R226 and R236, each signal and the transfers in flight of its
direction count one together while CTRL waits for it and none otherwise; so both signals are 0 while idle (R21, R126,
R233). -/
def Obligations.SignalsStayClean : Prop :=
  ∀ (s t : State) (e : Event) (rest : List Event),
    ControlOk s → SignalsOk s → s.io.events = e :: rest → linkBehaves s e = true → noHazard s e = true →
    step s = .next t → SignalsOk t ∧ (t.seq = [] → t.regs.rxsig = 0 ∧ t.regs.txsig = 0)

/-- The invariants hold right after reset (R35), with the model's own fields as log 22 gives them. -/
def Obligations.InvariantsHoldAtReset : Prop :=
  ControlOk State.reset ∧ HandlesOk State.reset ∧ HbOk State.reset ∧ StageOk State.reset ∧ DoneOk State.reset
  ∧ ResultOk State.reset ∧ InitedOk State.reset ∧ WriteOk State.reset ∧ ProgramsInsidePages State.reset ∧ latchPhase State.reset
  ∧ latchBeforeEach State.reset.cfg State.reset.io.trace = true ∧ SignalsOk State.reset

/-- The result latches feed back into no later behaviour: two states that differ in them alone step to states that differ
in them alone (R10). -/
def Obligations.ResultLatchesFeedNothing : Prop :=
  ∀ s : State, mapNext State.forgetResults (step s.forgetResults) = mapNext State.forgetResults (step s)

/-! ### Runs -/

/-- A wait ends within its bound (R132): after any steps of the other agents that the model gives a next state (ticks,
callbacks of any transfer or of none, host accesses, the LINK's data movement; no reset), once as many ticks have come as
`TMR` holds, CTRL's next step leaves `WaitFor`; that this step also ends `ISSUE.3` is DEDUCED (log 4). -/
def Obligations.WaitEndsWithinItsBound : Prop :=
  ∀ (s u : State) (up : List Label) (es rest : List Event) (ans : Answer),
    s.cfg.valid = true → s.seq = .wait2 :: .issue3 :: up →
    (s.work.arg.kind.style = .asyncRx ∨ s.work.arg.kind.style = .asyncTx) →
    (∀ e ∈ es, e ≠ .rst ∧ ∀ a, e ≠ .ctrl a) → s.work.tmr.toNat ≤ es.count .tick →
    s.io.events = es ++ .ctrl ans :: rest → Sys2Proof.core.run es.length s = .next u →
    ∃ t, Sys2Proof.core.run (es.length + 1) s = .next t ∧ t.seq = .issue4 :: up ∧ t.io.events = rest

/-- A READ of `n >= 1` bytes with a link that accepts the command and completes the transfer: after the start and eleven
steps the result is OK, the buffer holds the bytes the link received and no other byte of `HB` has changed, and the link
has seen one read-array command and one receive of the whole range (R170, R127, R131, R43). The number of CTRL steps is
that of log 4 (DEDUCED). -/
def Obligations.ReadFillsTheBuffer : Prop :=
  ∀ (s : State) (d : List Byte) (rest : List Event),
    s.cfg.valid = true → s.seq = [] → s.regs.inited = true → s.regs.rxsig = 0 → s.link.rx = [] → s.hb.wf = true →
    s.regs.len ≠ 0 → s.regs.addr.toNat + s.regs.len.toNat ≤ s.cfg.capacity → d.length = s.regs.len.toNat →
    s.regs.bufptr.toNat + s.regs.len.toNat ≤ s.cfg.hbSize →
    s.io.events = .hostWrite s.cfg.regBase .word 3 :: okSteps 7 ++ .cbRx (some (0, d)) :: okSteps 3 ++ rest →
    ∃ t, Sys2Proof.core.run 12 s = .next t
      ∧ t.regs.result = 0 ∧ t.regs.done = true ∧ t.seq = [] ∧ t.regs.rxh = false ∧ t.regs.rxsig = 0
      ∧ t.link.rx = [] ∧ t.io.events = rest
      ∧ t.io.trace = .rxa s.regs.bufptr s.regs.len true
          :: .send .readArray (arrayRead s.cfg s.regs.addr s.regs.len) true :: s.io.trace
      ∧ ∀ b, hbByte t.hb b =
          if s.regs.bufptr.toNat ≤ b ∧ b < s.regs.bufptr.toNat + d.length then d.getD (b - s.regs.bufptr.toNat) 0
          else hbByte s.hb b

/-- A WRITE with a link that accepts everything, confirms the latch at the first read, completes each transfer and is
never busy: it ends with OK and PROGRESS = LEN, has sent one page-program command per element of `Chunks(a, n)` in order,
and the bytes transmitted are those of the buffer in order (R157, R158, R44). The number of CTRL steps is that of log 4
(DEDUCED). -/
def Obligations.WriteSendsTheChunks : Prop :=
  ∀ (s : State) (rest : List Event) (k : Nat),
    s.cfg.valid = true → s.cfg.hbSize ≤ 2 ^ 32 → s.seq = [] → s.regs.inited = true → s.regs.txsig = 0 →
    s.link.tx = [] → s.regs.addr.toNat + s.regs.len.toNat ≤ s.cfg.capacity →
    s.regs.bufptr.toNat + s.regs.len.toNat ≤ s.cfg.hbSize →
    k = (chunks s.cfg s.regs.addr.toNat s.regs.len.toNat).length →
    s.io.events = .hostWrite s.cfg.regBase .word 4 :: okSteps 2
      ++ (List.replicate k (promptChunk s.cfg)).flatten ++ okSteps 1 ++ rest →
    ∃ t, Sys2Proof.core.run (4 + k * (promptChunk s.cfg).length) s = .next t
      ∧ t.regs.result = 0 ∧ t.regs.done = true ∧ t.seq = [] ∧ t.regs.progress = s.regs.len
      ∧ t.regs.txh = false ∧ t.regs.txsig = 0 ∧ t.link.tx = [] ∧ t.hb = s.hb ∧ t.io.events = rest
      ∧ programs t.io.trace =
          ((chunks s.cfg s.regs.addr.toNat s.regs.len.toNat).map (fun x =>
            (BitVec.ofNat 32 x.addr, s.regs.bufptr + BitVec.ofNat 32 x.off, BitVec.ofNat 32 x.len))).reverse
            ++ programs s.io.trace
      ∧ (t.link.sent.take k).reverse.flatten =
          (List.range s.regs.len.toNat).map (fun i => hbByte s.hb (s.regs.bufptr.toNat + i))

end Statements
end

