-- ==== Sys2Proof/Laws/State.lean ====
section
/-! SUPPORT. The fields of the state after each named operation: one lemma per field per operation, so that no proof
unfolds a record update. -/

namespace Sys2Proof.Machine

@[simp] theorem goto_cfg (l : Label) (s : State) : (goto l s).cfg = s.cfg := rfl
@[simp] theorem goto_regs (l : Label) (s : State) : (goto l s).regs = s.regs := rfl
@[simp] theorem goto_seq (l : Label) (s : State) : (goto l s).seq = l :: s.seq.tail := rfl
@[simp] theorem goto_work (l : Label) (s : State) : (goto l s).work = s.work := rfl
@[simp] theorem goto_hb (l : Label) (s : State) : (goto l s).hb = s.hb := rfl
@[simp] theorem goto_link (l : Label) (s : State) : (goto l s).link = s.link := rfl
@[simp] theorem goto_io (l : Label) (s : State) : (goto l s).io = s.io := rfl

@[simp] theorem call_cfg (l : Label) (s : State) : (call l s).cfg = s.cfg := rfl
@[simp] theorem call_regs (l : Label) (s : State) : (call l s).regs = s.regs := rfl
@[simp] theorem call_seq (l : Label) (s : State) : (call l s).seq = l :: s.seq := rfl
@[simp] theorem call_work (l : Label) (s : State) : (call l s).work = s.work := rfl
@[simp] theorem call_hb (l : Label) (s : State) : (call l s).hb = s.hb := rfl
@[simp] theorem call_link (l : Label) (s : State) : (call l s).link = s.link := rfl
@[simp] theorem call_io (l : Label) (s : State) : (call l s).io = s.io := rfl

@[simp] theorem callIssue_cfg (k : Kind) (a n ptr : Word) (s : State) : (callIssue k a n ptr s).cfg = s.cfg := rfl
@[simp] theorem callIssue_regs (k : Kind) (a n ptr : Word) (s : State) : (callIssue k a n ptr s).regs = s.regs := rfl
@[simp] theorem callIssue_seq (k : Kind) (a n ptr : Word) (s : State) :
    (callIssue k a n ptr s).seq = .issue1 :: s.seq := rfl
@[simp] theorem callIssue_work (k : Kind) (a n ptr : Word) (s : State) :
    (callIssue k a n ptr s).work = { s.work with arg := ⟨k, a, n, ptr⟩ } := rfl
@[simp] theorem callIssue_hb (k : Kind) (a n ptr : Word) (s : State) : (callIssue k a n ptr s).hb = s.hb := rfl
@[simp] theorem callIssue_link (k : Kind) (a n ptr : Word) (s : State) : (callIssue k a n ptr s).link = s.link := rfl
@[simp] theorem callIssue_io (k : Kind) (a n ptr : Word) (s : State) : (callIssue k a n ptr s).io = s.io := rfl

@[simp] theorem complete_cfg (e : Err) (g : BitVec 4) (b : Bool) (s : State) : (complete e g b s).cfg = s.cfg := rfl
@[simp] theorem complete_regs (e : Err) (g : BitVec 4) (b : Bool) (s : State) :
    (complete e g b s).regs = { s.regs with result := resultWord e g b, rxh := false, txh := false, done := true } := rfl
@[simp] theorem complete_seq (e : Err) (g : BitVec 4) (b : Bool) (s : State) : (complete e g b s).seq = [] := rfl
@[simp] theorem complete_work (e : Err) (g : BitVec 4) (b : Bool) (s : State) :
    (complete e g b s).work = s.work := rfl
@[simp] theorem complete_hb (e : Err) (g : BitVec 4) (b : Bool) (s : State) : (complete e g b s).hb = s.hb := rfl
@[simp] theorem complete_link (e : Err) (g : BitVec 4) (b : Bool) (s : State) :
    (complete e g b s).link = s.link := rfl
@[simp] theorem complete_io (e : Err) (g : BitVec 4) (b : Bool) (s : State) : (complete e g b s).io = s.io := rfl

@[simp] theorem raise_cfg (e : Err) (s : State) : (raise e s).cfg = s.cfg := rfl
@[simp] theorem raise_regs (e : Err) (s : State) :
    (raise e s).regs = { s.regs with result := resultWord e s.work.stage false, rxh := false, txh := false, done := true } := rfl
@[simp] theorem raise_seq (e : Err) (s : State) : (raise e s).seq = [] := rfl
@[simp] theorem raise_work (e : Err) (s : State) : (raise e s).work = s.work := rfl
@[simp] theorem raise_hb (e : Err) (s : State) : (raise e s).hb = s.hb := rfl
@[simp] theorem raise_link (e : Err) (s : State) : (raise e s).link = s.link := rfl
@[simp] theorem raise_io (e : Err) (s : State) : (raise e s).io = s.io := rfl

@[simp] theorem start_cfg (v : Word) (s : State) : (start v s).cfg = s.cfg := rfl
@[simp] theorem start_regs (v : Word) (s : State) :
    (start v s).regs = { s.regs with opcmd := opField v, done := false, result := 0, progress := 0 } := rfl
@[simp] theorem start_seq (v : Word) (s : State) : (start v s).seq = [.start1] := rfl
@[simp] theorem start_work (v : Word) (s : State) :
    (start v s).work = { s.work with op := opField v, a := s.regs.addr, n := s.regs.len, p := s.regs.bufptr, stage := 0 } := rfl
@[simp] theorem start_hb (v : Word) (s : State) : (start v s).hb = s.hb := rfl
@[simp] theorem start_link (v : Word) (s : State) : (start v s).link = s.link := rfl
@[simp] theorem start_io (v : Word) (s : State) : (start v s).io = s.io := rfl

@[simp] theorem record_cfg (e : LinkCall) (s : State) : (record e s).cfg = s.cfg := rfl
@[simp] theorem record_regs (e : LinkCall) (s : State) : (record e s).regs = s.regs := rfl
@[simp] theorem record_seq (e : LinkCall) (s : State) : (record e s).seq = s.seq := rfl
@[simp] theorem record_work (e : LinkCall) (s : State) : (record e s).work = s.work := rfl
@[simp] theorem record_hb (e : LinkCall) (s : State) : (record e s).hb = s.hb := rfl
@[simp] theorem record_link (e : LinkCall) (s : State) : (record e s).link = s.link := rfl
@[simp] theorem record_io (e : LinkCall) (s : State) : (record e s).io = { s.io with trace := e :: s.io.trace } := rfl

@[simp] theorem signalRx_cfg (s : State) : (signalRx s).cfg = s.cfg := rfl
@[simp] theorem signalRx_regs (s : State) : (signalRx s).regs = { s.regs with rxsig := satSucc s.regs.rxsig } := rfl
@[simp] theorem signalRx_seq (s : State) : (signalRx s).seq = s.seq := rfl
@[simp] theorem signalRx_work (s : State) : (signalRx s).work = s.work := rfl
@[simp] theorem signalRx_hb (s : State) : (signalRx s).hb = s.hb := rfl
@[simp] theorem signalRx_link (s : State) : (signalRx s).link = s.link := rfl
@[simp] theorem signalRx_io (s : State) : (signalRx s).io = s.io := rfl

@[simp] theorem signalTx_cfg (s : State) : (signalTx s).cfg = s.cfg := rfl
@[simp] theorem signalTx_regs (s : State) : (signalTx s).regs = { s.regs with txsig := satSucc s.regs.txsig } := rfl
@[simp] theorem signalTx_seq (s : State) : (signalTx s).seq = s.seq := rfl
@[simp] theorem signalTx_work (s : State) : (signalTx s).work = s.work := rfl
@[simp] theorem signalTx_hb (s : State) : (signalTx s).hb = s.hb := rfl
@[simp] theorem signalTx_link (s : State) : (signalTx s).link = s.link := rfl
@[simp] theorem signalTx_io (s : State) : (signalTx s).io = s.io := rfl

@[simp] theorem resetBlock_cfg (s : State) : (resetBlock s).cfg = s.cfg := rfl
@[simp] theorem resetBlock_regs (s : State) : (resetBlock s).regs = Regs.reset := rfl
@[simp] theorem resetBlock_seq (s : State) : (resetBlock s).seq = [] := rfl
@[simp] theorem resetBlock_work (s : State) : (resetBlock s).work = Work.reset := rfl
@[simp] theorem resetBlock_hb (s : State) : (resetBlock s).hb = s.hb := rfl
@[simp] theorem resetBlock_link (s : State) : (resetBlock s).link = s.link := rfl
@[simp] theorem resetBlock_io (s : State) : (resetBlock s).io = s.io := rfl

@[simp] theorem pollLoad_cfg (t : Byte × Byte × Word) (s : State) : (pollLoad t s).cfg = s.cfg := rfl
@[simp] theorem pollLoad_regs (t : Byte × Byte × Word) (s : State) : (pollLoad t s).regs = s.regs := rfl
@[simp] theorem pollLoad_seq (t : Byte × Byte × Word) (s : State) : (pollLoad t s).seq = .poll2 :: s.seq.tail := rfl
@[simp] theorem pollLoad_work (t : Byte × Byte × Word) (s : State) :
    (pollLoad t s).work = { s.work with pmask := t.1, pmatch := t.2.1, tmr := t.2.2 } := rfl
@[simp] theorem pollLoad_hb (t : Byte × Byte × Word) (s : State) : (pollLoad t s).hb = s.hb := rfl
@[simp] theorem pollLoad_link (t : Byte × Byte × Word) (s : State) : (pollLoad t s).link = s.link := rfl
@[simp] theorem pollLoad_io (t : Byte × Byte × Word) (s : State) : (pollLoad t s).io = s.io := rfl

@[simp] theorem latchStatus_cfg (s : State) : (latchStatus s).cfg = s.cfg := rfl
@[simp] theorem latchStatus_regs (s : State) :
    (latchStatus s).regs = { s.regs with statusOut := classify (statusFlags s.cfg s.work.srT s.work.secT) } := rfl
@[simp] theorem latchStatus_seq (s : State) : (latchStatus s).seq = s.seq := rfl
@[simp] theorem latchStatus_work (s : State) :
    (latchStatus s).work = { s.work with sf := statusFlags s.cfg s.work.srT s.work.secT, gsT := classify (statusFlags s.cfg s.work.srT s.work.secT) } := rfl
@[simp] theorem latchStatus_hb (s : State) : (latchStatus s).hb = s.hb := rfl
@[simp] theorem latchStatus_link (s : State) : (latchStatus s).link = s.link := rfl
@[simp] theorem latchStatus_io (s : State) : (latchStatus s).io = s.io := rfl

@[simp] theorem at_cfg (q : List Label) (s : State) : (s.at q).cfg = s.cfg := rfl
@[simp] theorem at_regs (q : List Label) (s : State) : (s.at q).regs = s.regs := rfl
@[simp] theorem at_work (q : List Label) (s : State) : (s.at q).work = s.work := rfl
@[simp] theorem at_hb (q : List Label) (s : State) : (s.at q).hb = s.hb := rfl
@[simp] theorem at_link (q : List Label) (s : State) : (s.at q).link = s.link := rfl
@[simp] theorem at_io (q : List Label) (s : State) : (s.at q).io = s.io := rfl
@[simp] theorem at_seq (q : List Label) (s : State) : (s.at q).seq = q := rfl
@[simp] theorem at_at (q r : List Label) (s : State) : (s.at q).at r = s.at r := rfl

@[simp] theorem traced_cfg (e : LinkCall) (s : State) : (s.traced e).cfg = s.cfg := rfl
@[simp] theorem traced_regs (e : LinkCall) (s : State) : (s.traced e).regs = s.regs := rfl
@[simp] theorem traced_work (e : LinkCall) (s : State) : (s.traced e).work = s.work := rfl
@[simp] theorem traced_hb (e : LinkCall) (s : State) : (s.traced e).hb = s.hb := rfl
@[simp] theorem traced_link (e : LinkCall) (s : State) : (s.traced e).link = s.link := rfl
@[simp] theorem traced_seq (e : LinkCall) (s : State) : (s.traced e).seq = s.seq := rfl
@[simp] theorem traced_trace (e : LinkCall) (s : State) : (s.traced e).io.trace = e :: s.io.trace := rfl

@[simp] theorem endedWith_cfg (e g p : Nat) (s : State) : (s.endedWith e g p).cfg = s.cfg := rfl
@[simp] theorem endedWith_work (e g p : Nat) (s : State) : (s.endedWith e g p).work = s.work := rfl
@[simp] theorem endedWith_hb (e g p : Nat) (s : State) : (s.endedWith e g p).hb = s.hb := rfl
@[simp] theorem endedWith_link (e g p : Nat) (s : State) : (s.endedWith e g p).link = s.link := rfl
@[simp] theorem endedWith_io (e g p : Nat) (s : State) : (s.endedWith e g p).io = s.io := rfl
@[simp] theorem endedWith_seq (e g p : Nat) (s : State) : (s.endedWith e g p).seq = [] := rfl
@[simp] theorem endedWith_at (e g p : Nat) (q : List Label) (s : State) :
    (s.at q).endedWith e g p = s.endedWith e g p := rfl

@[simp] theorem rxRaised_cfg (s : State) : s.rxRaised.cfg = s.cfg := rfl
@[simp] theorem rxRaised_seq (s : State) : s.rxRaised.seq = s.seq := rfl
@[simp] theorem rxRaised_work (s : State) : s.rxRaised.work = s.work := rfl
@[simp] theorem rxRaised_hb (s : State) : s.rxRaised.hb = s.hb := rfl
@[simp] theorem rxRaised_link (s : State) : s.rxRaised.link = s.link := rfl
@[simp] theorem rxRaised_io (s : State) : s.rxRaised.io = s.io := rfl
@[simp] theorem txRaised_cfg (s : State) : s.txRaised.cfg = s.cfg := rfl
@[simp] theorem txRaised_seq (s : State) : s.txRaised.seq = s.seq := rfl
@[simp] theorem txRaised_work (s : State) : s.txRaised.work = s.work := rfl
@[simp] theorem txRaised_hb (s : State) : s.txRaised.hb = s.hb := rfl
@[simp] theorem txRaised_link (s : State) : s.txRaised.link = s.link := rfl
@[simp] theorem txRaised_io (s : State) : s.txRaised.io = s.io := rfl

@[simp] theorem afterEvents_cfg (s : State) (r : List Event) : (s.afterEvents r).cfg = s.cfg := rfl
@[simp] theorem afterEvents_regs (s : State) (r : List Event) : (s.afterEvents r).regs = s.regs := rfl
@[simp] theorem afterEvents_seq (s : State) (r : List Event) : (s.afterEvents r).seq = s.seq := rfl
@[simp] theorem afterEvents_work (s : State) (r : List Event) : (s.afterEvents r).work = s.work := rfl
@[simp] theorem afterEvents_hb (s : State) (r : List Event) : (s.afterEvents r).hb = s.hb := rfl
@[simp] theorem afterEvents_link (s : State) (r : List Event) : (s.afterEvents r).link = s.link := rfl
@[simp] theorem afterEvents_events (s : State) (r : List Event) : (s.afterEvents r).io.events = r := rfl

/-- `Complete` in the words of the statements (R201, R18). -/
theorem complete_eq_endedWith (e : Err) (g : BitVec 4) (b : Bool) (s : State) :
    complete e g b s = s.endedWith e.code.toNat g.toNat b.toNat := by
  have h : resultWord e g b = BitVec.ofNat 32 (e.code.toNat + 16 * g.toNat + 256 * b.toNat) := by
    cases e <;> revert g b <;> decide
  simp only [complete, State.endedWith, h]

/-- `raise` in the words of the statements (R202). -/
theorem raise_eq_endedWith (e : Err) (s : State) : raise e s = s.endedWith e.code.toNat s.work.stage.toNat 0 :=
  complete_eq_endedWith ..

@[simp] theorem goto_eq_at (l x : Label) (up : List Label) (s : State) : goto l (s.at (x :: up)) = s.at (l :: up) := rfl
@[simp] theorem call_eq_at (l : Label) (q : List Label) (s : State) : call l (s.at q) = s.at (l :: q) := rfl
@[simp] theorem callIssue_eq_issuing (k : Kind) (a n ptr : Word) (q : List Label) (s : State) :
    callIssue k a n ptr (s.at q) = s.issuing q k a n ptr := rfl

/-- `STAT.BUSY` is `SEQ != IDLE` (R11). -/
theorem busy_eq_true_iff (s : State) : s.busy = true ↔ s.seq ≠ [] := by
  cases h : s.seq <;> simp [State.busy, h]

theorem busy_eq_false_iff (s : State) : s.busy = false ↔ s.seq = [] := by
  cases h : s.seq <;> simp [State.busy, h]

/-- An agent's event is taken off the schedule and nothing else changes. -/
theorem takeEvent_agent {s : State} {e : Event} (h : ∀ a, e ≠ .ctrl a) (r : List Event) :
    s.takeEvent e r = s.afterEvents r := by
  cases e <;> first | rfl | exact absurd rfl (h _)

theorem takeEvent_ctrl (s : State) (a : Answer) (r : List Event) :
    s.takeEvent (.ctrl a) r = { s with io := { s.io with events := r, ans := a } } := rfl

@[simp] theorem takeEvent_cfg (s : State) (e : Event) (r : List Event) : (s.takeEvent e r).cfg = s.cfg := by
  cases e <;> rfl
@[simp] theorem takeEvent_regs (s : State) (e : Event) (r : List Event) : (s.takeEvent e r).regs = s.regs := by
  cases e <;> rfl
@[simp] theorem takeEvent_seq (s : State) (e : Event) (r : List Event) : (s.takeEvent e r).seq = s.seq := by
  cases e <;> rfl
@[simp] theorem takeEvent_work (s : State) (e : Event) (r : List Event) : (s.takeEvent e r).work = s.work := by
  cases e <;> rfl
@[simp] theorem takeEvent_hb (s : State) (e : Event) (r : List Event) : (s.takeEvent e r).hb = s.hb := by
  cases e <;> rfl
@[simp] theorem takeEvent_link (s : State) (e : Event) (r : List Event) : (s.takeEvent e r).link = s.link := by
  cases e <;> rfl
@[simp] theorem takeEvent_trace (s : State) (e : Event) (r : List Event) :
    (s.takeEvent e r).io.trace = s.io.trace := by
  cases e <;> rfl

end Sys2Proof.Machine
end

