-- ==== Sys2Proof/Laws/Memory.lean ====
section
/-! SUPPORT. Laws of the host buffer space: read after write, frames, and the canonical form under every operation
(spec/20_memory.md rules R41, R42). -/

namespace Sys2Proof.Machine

theorem hbByte_below {m : Memory} {lo a : Nat} (h : m.wfAbove lo = true) (ha : a < lo) : hbByte m a = hbBlank := by
  induction m generalizing lo with
  | nil => rfl
  | cons x m ih =>
    obtain ⟨x, v⟩ := x
    simp only [Memory.wfAbove, Bool.and_eq_true, decide_eq_true_eq] at h
    have hne : a ≠ x := by omega
    simp only [hbByte, hne, if_false]
    exact ih h.2 (by omega)

theorem wfAbove_mono {m : Memory} {lo lo' : Nat} (h : m.wfAbove lo = true) (hl : lo' ≤ lo) :
    m.wfAbove lo' = true := by
  cases m with
  | nil => rfl
  | cons x m =>
    obtain ⟨x, v⟩ := x
    simp only [Memory.wfAbove, Bool.and_eq_true, decide_eq_true_eq] at h ⊢
    exact ⟨⟨by omega, h.1.2⟩, h.2⟩

/-- A write is read back at its address and nowhere else (R41, R42). -/
theorem hbByte_hbSet {m : Memory} {lo : Nat} (h : m.wfAbove lo = true) (a b' : Nat) (b : Byte) :
    hbByte (hbSet m a b) b' = if b' = a then b else hbByte m b' := by
  induction m generalizing lo with
  | nil => by_cases hb : b = hbBlank <;> by_cases ha : b' = a <;> simp [hbSet, hbByte, hb, ha]
  | cons x m ih =>
    obtain ⟨x, v⟩ := x
    simp only [Memory.wfAbove, Bool.and_eq_true, decide_eq_true_eq] at h
    have hx : hbByte m x = hbBlank := hbByte_below h.2 (by omega)
    simp only [hbSet]
    by_cases hlt : a < x
    · have ham : hbByte m a = hbBlank := hbByte_below h.2 (by omega)
      have hax : a ≠ x := by omega
      by_cases hb : b = hbBlank
      · by_cases hba : b' = a
        · simp [hlt, hb, hbByte, hba, hax, ham]
        · simp [hlt, hb, hbByte, hba]
      · simp [hlt, hb, hbByte]
    · by_cases heq : a = x
      · subst heq
        by_cases hb : b = hbBlank
        · by_cases hba : b' = a
          · simp [hb, hba, hx]
          · simp [hb, hbByte, hba]
        · by_cases hba : b' = a
          · simp [hb, hbByte, hba]
          · simp [hb, hbByte, hba]
      · simp only [hlt, heq, if_false, hbByte, ih h.2]
        by_cases hbx : b' = x
        · have : b' ≠ a := by omega
          simp [hbx, Ne.symm heq]
        · simp [hbx]

theorem hbSet_wfAbove {m : Memory} {lo a : Nat} (h : m.wfAbove lo = true) (ha : lo ≤ a) (b : Byte) :
    (hbSet m a b).wfAbove lo = true := by
  induction m generalizing lo with
  | nil => by_cases hb : b = hbBlank <;> simp [hbSet, Memory.wfAbove, hb, ha]
  | cons x m ih =>
    obtain ⟨x, v⟩ := x
    simp only [Memory.wfAbove, Bool.and_eq_true, decide_eq_true_eq] at h
    simp only [hbSet]
    split
    · split
      · simp [Memory.wfAbove, h]
      · rename_i hlt hb
        simp [Memory.wfAbove, h, hb, ha, Nat.succ_le_of_lt hlt]
    · split
      · rename_i hlt heq
        split
        · exact wfAbove_mono h.2 (by omega)
        · rename_i hb
          simp [Memory.wfAbove, h, hb, heq]
      · rename_i hlt heq
        simp [Memory.wfAbove, h, ih h.2 (by omega)]

theorem hbSet_wf {m : Memory} (h : m.wf = true) (a : Nat) (b : Byte) : (hbSet m a b).wf = true :=
  hbSet_wfAbove h (Nat.zero_le a) b

theorem mem_hbSet {m : Memory} {a : Nat} {b : Byte} {x : Host.Cell} (h : x ∈ hbSet m a b) : x ∈ m ∨ x.1 = a := by
  induction m with
  | nil =>
    simp only [hbSet] at h
    split at h
    · simp at h
    · simp only [List.mem_singleton] at h
      exact .inr (by simp [h])
  | cons y m ih =>
    obtain ⟨y, v⟩ := y
    simp only [hbSet] at h
    split at h
    · split at h
      · exact .inl h
      · rcases List.mem_cons.1 h with h | h
        · exact .inr (by simp [h])
        · exact .inl h
    · split at h
      · split at h
        · exact .inl (List.mem_cons_of_mem _ h)
        · rcases List.mem_cons.1 h with h | h
          · exact .inr (by simp [h])
          · exact .inl (List.mem_cons_of_mem _ h)
      · rcases List.mem_cons.1 h with h | h
        · exact .inl (by simp [h])
        · rcases ih h with h | h
          · exact .inl (List.mem_cons_of_mem _ h)
          · exact .inr h

theorem hbSetAll_wf {m : Memory} (h : m.wf = true) (a : Nat) (v : List Byte) : (hbSetAll m a v).wf = true := by
  induction v generalizing m a with
  | nil => exact h
  | cons b v ih => exact ih (hbSet_wf h a b) (a + 1)

theorem mem_hbSetAll {m : Memory} {a : Nat} {v : List Byte} {x : Host.Cell} (h : x ∈ hbSetAll m a v) :
    x ∈ m ∨ (a ≤ x.1 ∧ x.1 < a + v.length) := by
  induction v generalizing m a with
  | nil => exact .inl h
  | cons b v ih =>
    rcases ih h with h | h
    · rcases mem_hbSet h with h | h
      · exact .inl h
      · exact .inr (by simp only [List.length_cons]; omega)
    · exact .inr (by simp only [List.length_cons]; omega)

/-- Every byte after `MemWrite`: the list's byte inside the range, the old byte outside (R42). -/
theorem hbByte_hbSetAll {m : Memory} (h : m.wf = true) (a : Nat) (v : List Byte) (b : Nat) :
    hbByte (hbSetAll m a v) b = if a ≤ b then (v[b - a]?).getD (hbByte m b) else hbByte m b := by
  induction v generalizing m a with
  | nil => simp [hbSetAll]
  | cons x v ih =>
    rw [hbSetAll, ih (hbSet_wf h a x), hbByte_hbSet h]
    by_cases hba : b = a
    · subst hba; simp
    · by_cases hab : a ≤ b
      · have h1 : a + 1 ≤ b := by omega
        have h2 : b - a = (b - (a + 1)) + 1 := by omega
        simp [hab, h1, h2, hba]
      · have h1 : ¬ a + 1 ≤ b := by omega
        simp [hab, h1, hba]

/-- Every byte after `MemWrite`, by the range it was written to (R42). -/
theorem hbByte_hbSetAll_range {m : Memory} (h : m.wf = true) (a : Nat) (v : List Byte) (b : Nat) :
    hbByte (hbSetAll m a v) b = if a ≤ b ∧ b < a + v.length then v.getD (b - a) 0 else hbByte m b := by
  rw [hbByte_hbSetAll h]
  by_cases h1 : a ≤ b
  · by_cases h2 : b - a < v.length
    · have h3 : b < a + v.length := by omega
      simp [h1, h3, List.getElem?_eq_getElem h2]
    · have h3 : ¬ b < a + v.length := by omega
      simp [h1, h3, List.getElem?_eq_none (Nat.not_lt.1 h2)]
  · simp [h1]

/-- What `MemWrite` can answer (R42). -/
theorem memWrite_eq_some {c : Config} {m m' : Memory} {a : Nat} {v : List Byte} :
    memWrite c m a v = some m' ↔ a + v.length ≤ c.hbSize ∧ m' = hbSetAll m a v := by
  simp only [memWrite]
  split <;> simp_all [eq_comm]

/-- `MemWrite` keeps the canonical form inside the space. -/
theorem memWrite_keeps {c : Config} {m m' : Memory} {a : Nat} {v : List Byte} (h : memWrite c m a v = some m')
    (hw : m.wf = true) (hb : ∀ x ∈ m, x.1 < c.hbSize) : m'.wf = true ∧ ∀ x ∈ m', x.1 < c.hbSize := by
  obtain ⟨hl, rfl⟩ := memWrite_eq_some.1 h
  refine ⟨hbSetAll_wf hw _ _, fun x hx => ?_⟩
  rcases mem_hbSetAll hx with hx | hx
  · exact hb x hx
  · omega

/-- `MemWrite` of one byte inside the space (R42). -/
theorem memWrite_one {c : Config} {m : Memory} {a : Nat} (b : Byte) (hw : m.wf = true) (ha : a < c.hbSize) :
    ∃ m', memWrite c m a [b] = some m' ∧ m'.wf = true ∧ ∀ x, hbByte m' x = if x = a then b else hbByte m x := by
  refine ⟨hbSetAll m a [b], memWrite_eq_some.2 ⟨ha, rfl⟩, hbSetAll_wf hw a [b], fun x => ?_⟩
  exact hbByte_hbSet hw a x b

/-- What `MemRead` can answer (R41). -/
theorem memRead_eq_some {c : Config} {m : Memory} {a n : Nat} {d : List Byte} :
    memRead c m a n = some d ↔ a + n ≤ c.hbSize ∧ d = (List.range n).map (fun i => hbByte m (a + i)) := by
  simp only [memRead]
  split <;> simp_all [eq_comm]

end Sys2Proof.Machine
end

