-- ==== Sys2Proof/Laws/Ops.lean ====
section
/-! SUPPORT. What each shared operation can do, said once: return from a subroutine, the start check, a tick, and the
steps of the agents. -/

namespace Sys2Proof.Machine

@[simp] theorem resultWord_code (e : Err) (g : BitVec 4) (b : Bool) : (resultWord e g b).extractLsb' 0 4 = e.code := by
  cases e <;> revert g b <;> decide

/-- `return` changes no state but the registers it names: the configuration, `HB`, the link and the ports stay. -/
theorem returnTo_frame (up : List Label) (s : State) :
    (returnTo up s).cfg = s.cfg ∧ (returnTo up s).hb = s.hb ∧ (returnTo up s).link = s.link
      ∧ (returnTo up s).io = s.io := by
  induction up with
  | nil => simp [returnTo]
  | cons l up ih => cases l <;> simp [returnTo, ih] <;> split <;> simp

@[simp] theorem returnTo_cfg (up : List Label) (s : State) : (returnTo up s).cfg = s.cfg := (returnTo_frame up s).1
@[simp] theorem returnTo_hb (up : List Label) (s : State) : (returnTo up s).hb = s.hb := (returnTo_frame up s).2.1
@[simp] theorem returnTo_link (up : List Label) (s : State) : (returnTo up s).link = s.link :=
  (returnTo_frame up s).2.2.1
@[simp] theorem returnTo_io (up : List Label) (s : State) : (returnTo up s).io = s.io := (returnTo_frame up s).2.2.2

/-- START.1 of a checked operation raises UNINIT, raises GEOMETRY, or goes to the first label (R166). -/
theorem startChecked_cases (g : Bool) (l : Label) (s : State) :
    (s.regs.inited = false ∧ startChecked g l s = raise .uninit s)
      ∨ (s.regs.inited = true ∧ g = false ∧ startChecked g l s = raise .geometry s)
      ∨ (s.regs.inited = true ∧ g = true ∧ startChecked g l s = goto l s) := by
  cases hi : s.regs.inited <;> cases g <;> simp [startChecked, hi]

/-- A tick lowers `TMR` by one, not below 0, and changes nothing else (R212). -/
theorem tick_eq (s : State) :
    tick s = { s with work.tmr := BitVec.ofNat 32 (s.work.tmr.toNat - 1) } := by
  unfold tick
  split
  · rename_i h
    have : BitVec.ofNat 32 (s.work.tmr.toNat - 1) = s.work.tmr := by rw [h]; rfl
    rw [this]
  · rename_i h
    have h1 : s.work.tmr.toNat ≠ 0 := fun h0 => h (BitVec.eq_of_toNat_eq (by simpa using h0))
    have h2 : BitVec.ofNat 32 (s.work.tmr.toNat - 1) = s.work.tmr - 1 := by
      apply BitVec.eq_of_toNat_eq
      have hlt := s.work.tmr.isLt
      have hone : (1 : Word).toNat = 1 := rfl
      rw [BitVec.toNat_ofNat, BitVec.toNat_sub, hone]
      omega
    rw [h2]

@[simp] theorem tick_cfg (s : State) : (tick s).cfg = s.cfg := by rw [tick_eq]
@[simp] theorem tick_regs (s : State) : (tick s).regs = s.regs := by rw [tick_eq]
@[simp] theorem tick_seq (s : State) : (tick s).seq = s.seq := by rw [tick_eq]
@[simp] theorem tick_hb (s : State) : (tick s).hb = s.hb := by rw [tick_eq]
@[simp] theorem tick_link (s : State) : (tick s).link = s.link := by rw [tick_eq]
@[simp] theorem tick_io (s : State) : (tick s).io = s.io := by rw [tick_eq]
theorem tick_work (s : State) :
    (tick s).work = { s.work with tmr := BitVec.ofNat 32 (s.work.tmr.toNat - 1) } := by rw [tick_eq]

/-- The signal saturates (R130). -/
theorem satSucc_toNat (v : Word) : (satSucc v).toNat = min (v.toNat + 1) (2 ^ 32 - 1) := by
  unfold satSucc
  split
  · rename_i h; subst h; rfl
  · rename_i h
    have h1 : v.toNat ≠ 2 ^ 32 - 1 := fun h0 => h (BitVec.eq_of_toNat_eq (by simpa using h0))
    have := v.isLt
    rw [BitVec.toNat_add]
    simp
    omega

/-- `cb_rx` in the words of the statements (R130). -/
theorem signalRx_eq_rxRaised (s : State) : signalRx s = s.rxRaised := by
  have h : satSucc s.regs.rxsig = BitVec.ofNat 32 (min (s.regs.rxsig.toNat + 1) (2 ^ 32 - 1)) := by
    rw [← satSucc_toNat, BitVec.ofNat_toNat, BitVec.setWidth_eq]
  simp only [signalRx, State.rxRaised, h]

/-- `cb_tx` in the words of the statements (R130). -/
theorem signalTx_eq_txRaised (s : State) : signalTx s = s.txRaised := by
  have h : satSucc s.regs.txsig = BitVec.ofNat 32 (min (s.regs.txsig.toNat + 1) (2 ^ 32 - 1)) := by
    rw [← satSucc_toNat, BitVec.ofNat_toNat, BitVec.setWidth_eq]
  simp only [signalTx, State.txRaised, h]

/-- What `completeRx` can do (R43, R130). -/
theorem completeRx_cases {done : Option (Nat × List Byte)} {s s' : State} (h : completeRx done s = .next s') :
    s' = signalRx s ∨
      ∃ k d t m, done = some (k, d) ∧ s.link.rx[k]? = some t ∧ d.length = t.len.toNat
        ∧ memWrite s.cfg s.hb t.ptr.toNat d = some m
        ∧ s' = signalRx { s with hb := m, link.rx := s.link.rx.eraseIdx k } := by
  unfold completeRx at h
  split at h
  · exact .inl (by simpa using h.symm)
  · split at h
    · exact .inl (by simpa using h.symm)
    · split at h
      · exact .inl (by simpa using h.symm)
      · split at h
        · cases h
        · rename_i k d _ t ht hd _ m hm
          exact .inr ⟨k, d, t, m, rfl, ht, by simpa using hd, hm, by simpa using h.symm⟩

/-- What `completeTx` can do (R43, R130). -/
theorem completeTx_cases {done : Option Nat} {s s' : State} (h : completeTx done s = .next s') :
    s' = signalTx s ∨
      ∃ k t, done = some k ∧ s.link.tx[k]? = some t ∧ t.ptr.toNat + t.len.toNat ≤ s.cfg.hbSize
        ∧ s' = signalTx { s with
            link := { s.link with tx := s.link.tx.eraseIdx k, sent := t.bytes s.hb :: s.link.sent } } := by
  unfold completeTx at h
  split at h
  · exact .inl (by simpa using h.symm)
  · split at h
    · exact .inl (by simpa using h.symm)
    · split at h
      · rename_i k _ t ht hb
        exact .inr ⟨k, t, rfl, ht, hb, by simpa using h.symm⟩
      · cases h

/-- What an early store can do (R43). -/
theorem storeEarly_cases {k i : Nat} {b : Byte} {s s' : State} (h : storeEarly k i b s = .next s') :
    s' = s ∨ ∃ t m, s.link.rx[k]? = some t ∧ i < t.len.toNat
      ∧ memWrite s.cfg s.hb (t.ptr.toNat + i) [b] = some m ∧ s' = { s with hb := m } := by
  unfold storeEarly at h
  split at h
  · exact .inl (by simpa using h.symm)
  · split at h
    · split at h
      · cases h
      · rename_i _ t ht hi _ m hm
        exact .inr ⟨t, m, ht, hi, hm, by simpa using h.symm⟩
    · exact .inl (by simpa using h.symm)

/-- What a residue of a failed READ can do (R170, U8). -/
theorem residue_cases {i : Nat} {b : Byte} {s s' : State} (h : residue i b s = .next s') :
    s' = s ∨ ∃ m, readFailed s = true ∧ i < s.work.arg.n.toNat
      ∧ memWrite s.cfg s.hb (s.work.arg.ptr.toNat + i) [b] = some m ∧ s' = { s with hb := m } := by
  unfold residue at h
  split at h
  · split at h
    · cases h
    · rename_i hc _ m hm
      exact .inr ⟨m, hc.1, hc.2, hm, by simpa using h.symm⟩
  · exact .inl (by simpa using h.symm)

/-- What an early fetch can do (R43). -/
theorem fetchEarly_cases {k i : Nat} {s s' : State} (h : fetchEarly k i s = .next s') :
    s' = s ∨ ∃ t, s.link.tx[k]? = some t ∧ i < t.len.toNat ∧ t.ptr.toNat + i < s.cfg.hbSize
      ∧ s' = { s with
          link.tx := s.link.tx.set k { t with taken := (i, hbByte s.hb (t.ptr.toNat + i)) :: t.taken } } := by
  unfold fetchEarly at h
  split at h
  · exact .inl (by simpa using h.symm)
  · split at h
    · split at h
      · rename_i _ t ht hi hb
        exact .inr ⟨t, ht, hi, hb, by simpa using h.symm⟩
      · cases h
    · exact .inl (by simpa using h.symm)

/-- What a host register write can do (R165, R231, R232, R12). -/
theorem regWrite_cases (i : Nat) (v : Word) (s : State) :
    regWrite i v s = s
      ∨ (s.seq = [] ∧ i = 0 ∧ regWrite i v s = start v s)
      ∨ (s.seq = [] ∧ i = 1 ∧ regWrite i v s = { s with regs.addr := v })
      ∨ (s.seq = [] ∧ i = 2 ∧ regWrite i v s = { s with regs.len := v })
      ∨ (s.seq = [] ∧ i = 3 ∧ regWrite i v s = { s with regs.bufptr := v }) := by
  unfold regWrite
  split
  · exact .inl rfl
  · rename_i hb
    have hs : s.seq = [] := by simpa [State.busy] using hb
    split <;> simp [hs]

/-- What a step can do: nothing, a CTRL step of the fetched instruction, or the step of another agent (R5). -/
theorem step_cases {s s' : State} (h : step s = .next s') :
    s.cfg.valid = true ∧
      ((s.io.events = [] ∧ s' = s)
        ∨ (∃ ans rest, s.io.events = .ctrl ans :: rest ∧ fetch s = none ∧ s' = s.takeEvent (.ctrl ans) rest)
        ∨ (∃ ans rest i, s.io.events = .ctrl ans :: rest ∧ fetch s = some i
            ∧ exec i (s.takeEvent (.ctrl ans) rest) = .next s')
        ∨ (∃ e rest, s.io.events = e :: rest ∧ (∀ a, e ≠ .ctrl a) ∧ agentStep e (s.takeEvent e rest) = .next s')) := by
  unfold step at h
  split at h
  · rename_i hv
    refine ⟨hv, ?_⟩
    split at h
    · exact .inl ⟨by assumption, by simpa using h.symm⟩
    · rename_i ans rest he
      have hf : ∀ r a, fetch (s.takeEvent (.ctrl a) r) = fetch s := fun _ _ => rfl
      unfold ctrlStep at h
      rw [hf] at h
      split at h
      · rename_i i hi
        exact .inr (.inr (.inl ⟨ans, rest, i, he, hi, h⟩))
      · rename_i hi
        exact .inr (.inl ⟨ans, rest, he, hi, by simpa using h.symm⟩)
    · rename_i e rest hne he
      exact .inr (.inr (.inr ⟨e, rest, he, fun a ha => hne a ha, h⟩))
  · cases h

end Sys2Proof.Machine
end

