-- ==== Sys2Proof/Laws/Control.lean ====
section
/-! SUPPORT. CTRL's step from a legal label stack, said once by its innermost label (spec/10_state.md rule R11): the
micro-programs as one function `micro`, and the facts about label stacks that invariants need. -/

namespace Sys2Proof.Machine

/-! ### Legal label stacks -/

/-- The outermost label of a legal stack is `START.1` or a label of the operation. -/
theorem legal_last {op : BitVec 4} {q : List Label} (h : legalSeq op q = true) (hq : q ≠ []) :
    ∃ m, q.getLast? = some m ∧ (m = .start1 ∨ m.instr = some (decodeOp op)) := by
  induction q with
  | nil => exact absurd rfl hq
  | cons l q ih =>
    cases q with
    | nil => exact ⟨l, rfl, by simpa [legalSeq] using h⟩
    | cons m up =>
      simp only [legalSeq, Bool.and_eq_true] at h
      obtain ⟨x, hx, hy⟩ := ih h.2 (by simp)
      exact ⟨x, by simpa using hx, hy⟩

/-- The innermost label of a legal stack is also the outermost, or of a subroutine. -/
theorem legal_head {op : BitVec 4} {l : Label} {up : List Label} (h : legalSeq op (l :: up) = true) :
    (up = [] ∧ (l = .start1 ∨ l.instr = some (decodeOp op))) ∨ (up ≠ [] ∧ l.sub ≠ none) := by
  cases up with
  | nil => exact .inl ⟨rfl, by simpa [legalSeq] using h⟩
  | cons m up =>
    simp only [legalSeq, Bool.and_eq_true] at h
    exact .inr ⟨by simp, Option.isSome_iff_ne_none.1 h.1.1⟩

/-- Replacing the innermost label by one of the same program keeps a stack legal. -/
theorem legal_swap {op : BitVec 4} {l l' : Label} {up : List Label} (hs : l'.sub = l.sub) (hi : l'.instr = l.instr)
    (hne : l ≠ .start1) (h : legalSeq op (l :: up) = true) : legalSeq op (l' :: up) = true := by
  cases up with
  | nil => simp_all [legalSeq]
  | cons m up =>
    simp only [legalSeq, Bool.and_eq_true] at h ⊢
    rw [hs]; exact h

/-- The caller of the running `Issue` does not depend on which label of its subroutine CTRL is at. -/
theorem issueCaller_swap {l l' : Label} {up : List Label} (hs : l'.sub = l.sub) :
    issueCaller (l' :: up) = issueCaller (l :: up) := by
  cases up <;> simp [issueCaller, hs]

/-- The subroutines that the micro-program of an operation reaches (R179). -/
def usesSub : Sub → Instr → Bool
  | .getStatus, i => i == .getStatus || i == .suspendErase || i == .resumeErase
  | .poll, i | .wren, i => i == .init || i == .write || i == .eraseBlock || i == .eraseChip
  | .issue, i | .wait, i =>
    i == .init || i == .read || i == .write || i == .eraseBlock || i == .eraseChip || i == .getStatus
      || i == .suspendErase || i == .resumeErase || i == .enterLowPower || i == .leaveLowPower

/-- A legal stack is inside a subroutine only while an operation that reaches it runs. -/
theorem legal_uses {op : BitVec 4} {l : Label} {up : List Label} (h : legalSeq op (l :: up) = true) {b : Sub}
    (hb : l.sub = some b) : usesSub b (decodeOp op) = true := by
  induction up generalizing l b with
  | nil => simp only [legalSeq] at h; cases l <;> simp_all [Label.sub, Label.instr]
  | cons m up ih =>
    simp only [legalSeq, Bool.and_eq_true, beq_iff_eq] at h
    have hc : m.calls = some b := by rw [← h.1.2, hb]
    cases hm : m.sub with
    | some d =>
      have h1 := ih h.2 hm
      cases m <;> simp only [Label.sub, Option.some.injEq] at hm <;> (try cases hm) <;>
        simp [Label.calls] at hc <;> subst hc <;>
        first
        | exact h1
        | (generalize decodeOp op = i at *
           cases i <;> first | rfl | (simp [usesSub] at h1))
    | none =>
      rcases legal_head h.2 with ⟨_, hl⟩ | ⟨_, hl⟩
      · cases m <;> simp [Label.calls] at hc <;> simp [Label.instr] at hl <;> subst hc <;> rw [← hl] <;> rfl
      · exact absurd hm hl

/-- A host operation is no link command. -/
theorem decodeOp_not_link (op : BitVec 4) : (decodeOp op).linkArgs = none := by revert op; decide

/-- `return` keeps the latched operation and the pending command. -/
theorem returnTo_op_arg (up : List Label) (s : State) :
    (returnTo up s).work.op = s.work.op ∧ (returnTo up s).work.arg = s.work.arg := by
  induction up with
  | nil => simp [returnTo]
  | cons l up ih => cases l <;> simp [returnTo, ih] <;> split <;> simp

/-! ### The step at each label -/

/-- START.1 of the latched operation (R166). -/
def startStep (s : State) : State :=
  match decodeOp s.work.op with
  | .init => goto .in1 s
  | .getInfo => goto .gi1 s
  | .read => startChecked (rangeOk s.cfg s.work.a s.work.n) .rd1 s
  | .write => startChecked (rangeOk s.cfg s.work.a s.work.n) .wr1 s
  | .eraseBlock => startChecked (blockOk s.cfg s.work.a) .eb1 s
  | .eraseChip => startChecked true .ec1 s
  | .getStatus => startChecked true .gst1 s
  | .suspendErase => startChecked true .su1 s
  | .resumeErase => startChecked true .rs1 s
  | .enterLowPower => startChecked true .le1 s
  | .leaveLowPower => startChecked true .ll1 s
  | _ => raise .badOp s

/-- `ISSUE.2` of the pending command. -/
def dataStep (up : List Label) (s : State) : State :=
  match s.work.arg.kind.style with
  | .blkRx => issueRxb up s
  | .blkTx => issueTxb up s
  | .asyncRx => issueRxa up s
  | .asyncTx => issueTxa up s
  | .none => s

/-- `WAIT.2` of the pending command. -/
def waitStep (up : List Label) (s : State) : State :=
  match s.work.arg.kind.style with
  | .asyncRx => waitRx up s
  | .asyncTx => waitTx up s
  | _ => s

/-- `ISSUE.4` of the pending command. -/
def releaseStep (up : List Label) (s : State) : State :=
  match s.work.arg.kind.style with
  | .asyncRx => issueEnd up { s with regs.rxh := false }
  | .asyncTx => issueEnd up { s with regs.txh := false }
  | _ => s

/-- The labelled step CTRL takes, by the innermost label. -/
def micro (s : State) : State :=
  match s.seq with
  | [] => s
  | l :: up =>
    match l with
    | .start1 => startStep s
    | .in1 => initReset s
    | .in2 | .in6 | .in12 | .wr4 | .eb3 | .ec3 | .wren2 => call .poll1 s
    | .in3 => callIssue .rdStatus 0 0 0 { s with work.stage := 2 }
    | .in4 | .in10 | .wr2 | .eb1 | .ec1 => call .wren1 s
    | .in5 => initWriteStatus s
    | .in7 | .poll2 | .gs2 => callIssue .rdStatus 0 0 0 s
    | .in8 => callIssue .rdStatus 0 0 0 { s with work.stage := 3 }
    | .in9 | .in13 => callIssue .rdCfg 0 0 0 s
    | .in11 => initWriteConfig s
    | .in14 => initDone s
    | .gi1 => complete .ok 0 false (latchInfo s)
    | .rd1 => if s.work.n = 0 then goto .rd3 s else goto .rd2 s
    | .rd2 => callIssue .readArray s.work.a s.work.n s.work.p s
    | .rd3 | .wr6 | .eb4 | .ec4 | .gst2 | .le2 | .ll2 => complete .ok 0 false s
    | .wr1 => writeFirst s
    | .wr3 => callIssue .pageProgram s.work.cur s.work.chunk (s.work.p + s.work.off) s
    | .wr5 => writeAdvance s
    | .eb2 => callIssue .eraseBlock (blockAddr s.cfg s.work.a) 0 0 s
    | .ec2 => callIssue .chipErase 0 0 0 s
    | .gst1 | .su1 | .rs1 => call .gs1 s
    | .su2 => if s.work.gsT = .busy then callIssue .suspend 0 0 0 s else complete .ok 0 true s
    | .rs2 => if s.work.gsT = .suspended then callIssue .resume 0 0 0 s else complete .ok 0 true s
    | .le1 => callIssue .lpEnter 0 0 0 s
    | .ll1 => callIssue .lpExit 0 0 0 s
    | .issue1 => issueSend s.work.arg.kind s.work.arg.a s.work.arg.n up s
    | .issue2 => dataStep up s
    | .issue3 => call .wait1 s
    | .issue4 => releaseStep up s
    | .wait1 => goto .wait2 { s with work.tmr := s.cfg.tXfer }
    | .wait2 => waitStep up s
    | .poll1 =>
      match up with
      | m :: _ =>
        match pollArgs s.cfg m with
        | some t => pollLoad t s
        | none => s
      | [] => s
    | .poll3 => pollTest up s
    | .wren1 => callIssue .writeEnable 0 0 0 s
    | .gs1 => callIssue .rdSecurity 0 0 0 s
    | .gs3 => returnTo up (latchStatus s)

/-- A link command is its `Issue`. -/
theorem exec_link (k : Kind) (a n : Word) (s : State) : exec (k.instr a n) s = issueStep k a n s := by
  cases k <;> simp [Kind.instr, exec, execKRdStatus, execKRdSecurity, execKRdCfg, execKWrCfg, execKReadArray,
    execKPageProgram, execKEraseBlock, execKChipErase, execKWriteEnable, execKLpEnter, execKLpExit, execKMemmapCfg,
    execKSuspend, execKResume, issueStep, issueSend, encodeCmd]

theorem issueStep_micro {s : State} {l : Label} {up : List Label} (hs : s.seq = l :: up) (hl : l.isTransport = true)
    (hst : styleAt l s.work.arg.kind.style = true) :
    issueStep s.work.arg.kind s.work.arg.a s.work.arg.n s = .next (micro s) := by
  cases l <;> simp only [Label.isTransport] at hl <;> (try cases hl) <;>
    simp only [issueStep, hs, micro, issueData, issueRelease, waitSignal, dataStep, waitStep, releaseStep, styleAt]
      at hst ⊢ <;>
    cases hk : s.work.arg.kind.style <;> rw [hk] at hst <;> simp at hst ⊢

theorem pollWrenStep_micro {s : State} {l : Label} {up : List Label} (hs : s.seq = l :: up)
    (hleg : legalSeq s.work.op (l :: up) = true) (hl : l.sub = some .poll ∨ l.sub = some .wren) :
    pollWrenStep s = .next (micro s) := by
  cases l <;> simp [Label.sub] at hl <;> simp only [pollWrenStep, pollStep, hs, micro]
  case poll1 =>
    cases up with
    | nil => simp [legalSeq, Label.instr] at hleg
    | cons m up =>
      simp only [legalSeq, Bool.and_eq_true, beq_iff_eq] at hleg
      have h2 : ∃ t, pollArgs s.cfg m = some t := by
        have h1 := hleg.1.2
        cases m <;> simp_all [Label.calls, Label.sub, pollArgs]
      obtain ⟨t, ht⟩ := h2
      simp only [ht]

theorem getStatusStep_micro {s : State} {l : Label} {up : List Label} (hs : s.seq = l :: up)
    (hl : l.sub = some .getStatus) : getStatusStep s = .next (micro s) := by
  cases l <;> simp [Label.sub] at hl <;> simp only [getStatusStep, hs, micro]

/-- From a legal position the fetched instruction's step is the labelled step of the innermost label. -/
theorem exec_micro {s : State} (h : ControlOk s) {i : Instr} (hf : fetch s = some i) : exec i s = .next (micro s) := by
  unfold fetch at hf
  split at hf
  · cases hf
  · rename_i l up hs
    split at hf
    · rename_i ht
      simp only [Option.some.injEq] at hf
      subst hf
      rw [exec_link]
      exact issueStep_micro hs ht (h.2.2 l (by simp [hs]))
    · rename_i ht
      simp only [Option.some.injEq] at hf
      have hleg := h.1
      rw [hs] at hleg
      rcases legal_head hleg with ⟨hup, hl⟩ | ⟨hup, hl⟩
      · subst hup
        rcases hl with hl | hl
        · subst hl
          have hnl := decodeOp_not_link s.work.op
          rw [hf] at hnl
          cases i <;> simp only [Instr.linkArgs] at hnl <;> (try cases hnl) <;>
            simp only [exec, execInit, execGetInfo, execRead, execWrite, execEraseBlock, execEraseChip, execGetStatus,
              execSuspendErase, execResumeErase, execEnterLowPower, execLeaveLowPower, execReserved0, execReservedC,
              execReservedD, execReservedE, execReservedF, badOpStep, hs, micro, startStep, hf]
        · rw [hf] at hl
          cases l <;> simp only [Label.instr, Option.some.injEq] at hl <;> (try cases hl) <;>
            simp only [exec, execInit, execGetInfo, execRead, execWrite, execEraseBlock, execEraseChip, execGetStatus,
              execSuspendErase, execResumeErase, execEnterLowPower, execLeaveLowPower, hs, micro]
      · obtain ⟨b, hb⟩ := Option.ne_none_iff_exists'.1 hl
        have hu := legal_uses hleg hb
        rw [hf] at hu
        have hne : ∀ x, s.seq ≠ [x] := by intro x; rw [hs]; simp [hup]
        have hpw : b = .poll ∨ b = .wren → pollWrenStep s = .next (micro s) :=
          fun hh => pollWrenStep_micro hs hleg (by rcases hh with rfl | rfl <;> simp [hb])
        have hgs : b = .getStatus → getStatusStep s = .next (micro s) :=
          fun hh => getStatusStep_micro hs (by rw [hb, hh])
        have hnt : b ≠ .issue ∧ b ≠ .wait := by
          cases l <;> simp_all [Label.sub, Label.isTransport] <;> subst hb <;> simp
        cases b <;> simp at hnt <;> cases i <;> simp [usesSub] at hu <;>
          simp only [exec, execInit, execWrite, execEraseBlock, execEraseChip, execGetStatus, execSuspendErase,
            execResumeErase] <;>
          split <;> (try (exact absurd ‹_› (hne _))) <;> first | exact hpw (by simp) | exact hgs rfl

/-- What a step from a legal position can do (R5): nothing, CTRL idling, CTRL's labelled step, or an agent's step. -/
theorem step_micro {s s' : State} (h : ControlOk s) (hs : step s = .next s') :
    s' = s
      ∨ (∃ ans rest, s.io.events = .ctrl ans :: rest ∧ s.seq = [] ∧ s' = s.takeEvent (.ctrl ans) rest)
      ∨ (∃ ans rest, s.io.events = .ctrl ans :: rest ∧ s.seq ≠ [] ∧ s' = micro (s.takeEvent (.ctrl ans) rest))
      ∨ (∃ e rest, s.io.events = e :: rest ∧ (∀ a, e ≠ .ctrl a) ∧ agentStep e (s.takeEvent e rest) = .next s') := by
  obtain ⟨_, hs⟩ := step_cases hs
  rcases hs with ⟨_, rfl⟩ | ⟨ans, rest, he, hf, rfl⟩ | ⟨ans, rest, i, he, hf, hx⟩ | ⟨e, rest, he, hn, hx⟩
  · exact .inl rfl
  · refine .inr (.inl ⟨ans, rest, he, ?_, rfl⟩)
    unfold fetch at hf
    split at hf
    · assumption
    · split at hf <;> cases hf
  · have h2 : ControlOk (s.takeEvent (.ctrl ans) rest) := by
      unfold ControlOk at *
      simpa using h
    rw [exec_micro h2 (i := i) hf] at hx
    cases hx
    refine .inr (.inr (.inl ⟨ans, rest, he, ?_, rfl⟩))
    intro h0
    rw [fetch, h0] at hf
    cases hf
  · exact .inr (.inr (.inr ⟨e, rest, he, hn, hx⟩))

end Sys2Proof.Machine
end

