-- ==== Sys2Proof/Laws/PerInstr.lean ====
section
/-! SUPPORT. One law per instruction: when the opcode parameters differ, the opcode byte of an instruction's descriptor
names its kind (spec/30_encoding.md rule R68); `K_MEMMAP_CFG` shares the read opcode (rule R102). -/

namespace Sys2Proof.Laws

/-- Under different opcode parameters an opcode parameter names the first kind that has it. -/
theorem kindOfOpcode_opcode (c : Config) (h : c.opcodesDistinct = true) (k : Kind) :
    kindOfOpcode c (c.opcode k) = some (if k = .memmapCfg then .readArray else k) := by
  replace h : c.opcodes.Nodup := of_decide_eq_true h
  simp only [Config.opcodes, List.nodup_cons, List.mem_cons, List.not_mem_nil, not_or, or_false] at h
  cases k <;> simp [kindOfOpcode, kinds, Config.opcode, h]

namespace KindOfEncoding

/-- The opcode of the descriptor of `i` names its kind. -/
def Statement (i : Instr) : Prop :=
  ∀ (c : Config) (k : Kind) (a n : Word), c.opcodesDistinct = true → i.linkArgs = some (k, a, n) →
    kindOfOpcode c (encodeCmd c k a n).opcode = some (if k = .memmapCfg then .readArray else k)

/-- The opcode field of every descriptor is the kind's opcode parameter. -/
theorem of_all (i : Instr) : Statement i := by
  intro c k a n h _
  have : (encodeCmd c k a n).opcode = c.opcode k := by cases k <;> rfl
  rw [this]
  exact kindOfOpcode_opcode c h k

theorem init : Statement .init := of_all _
theorem getInfo : Statement .getInfo := of_all _
theorem read : Statement .read := of_all _
theorem write : Statement .write := of_all _
theorem eraseBlock : Statement .eraseBlock := of_all _
theorem eraseChip : Statement .eraseChip := of_all _
theorem getStatus : Statement .getStatus := of_all _
theorem suspendErase : Statement .suspendErase := of_all _
theorem resumeErase : Statement .resumeErase := of_all _
theorem enterLowPower : Statement .enterLowPower := of_all _
theorem leaveLowPower : Statement .leaveLowPower := of_all _
theorem reserved0 : Statement .reserved0 := of_all _
theorem reservedC : Statement .reservedC := of_all _
theorem reservedD : Statement .reservedD := of_all _
theorem reservedE : Statement .reservedE := of_all _
theorem reservedF : Statement .reservedF := of_all _
theorem kRdStatus : Statement .kRdStatus := of_all _
theorem kRdSecurity : Statement .kRdSecurity := of_all _
theorem kRdCfg : Statement .kRdCfg := of_all _
theorem kWrCfg (n : Word) : Statement (.kWrCfg n) := of_all _
theorem kReadArray (a n : Word) : Statement (.kReadArray a n) := of_all _
theorem kPageProgram (a n : Word) : Statement (.kPageProgram a n) := of_all _
theorem kEraseBlock (a : Word) : Statement (.kEraseBlock a) := of_all _
theorem kChipErase : Statement .kChipErase := of_all _
theorem kWriteEnable : Statement .kWriteEnable := of_all _
theorem kLpEnter : Statement .kLpEnter := of_all _
theorem kLpExit : Statement .kLpExit := of_all _
theorem kMemmapCfg : Statement .kMemmapCfg := of_all _
theorem kSuspend : Statement .kSuspend := of_all _
theorem kResume : Statement .kResume := of_all _

end KindOfEncoding

end Sys2Proof.Laws
end

