-- ==== Sys2Proof/Tests/Slice0.lean ====
section
/-! SUPPORT. Tests by evaluation. Expected values come from spec/95_test_vectors.md (vector ids V-...) or from the rule a
comment names; `wit_` theorems show a state and operands that meet the hypotheses of a statement of Obligations.lean. -/

namespace Sys2Proof.Tests

open Sys2Proof Sys2Proof.Machine

/-! ### Helpers -/

/-- `f` of the next state; none if there is none. -/
def next {α : Type} (o : Out) (f : State → α) : Option α :=
  match o with
  | .next s => some (f s)
  | _ => none

/-- The instruction a code decodes to under P_QUAD. -/
def dec (x : Code) : Option Instr := (decode Config.pQuad x).toOption

/-- Initialised, operation `op` at the labels `q`, the link's next answer `ans`. -/
def at' (op : BitVec 4) (q : List Label) (ans : Answer := .ok ⟨0, 0, 0, 0⟩) : State :=
  { State.reset with
    regs.inited := true, work.op := op, seq := q, io.ans := ans }

/-- As `at'`, with the operands `a`, `n`, `p`. -/
def at3 (op : BitVec 4) (q : List Label) (a n p : Word) : State :=
  { at' op q with work := { (at' op q).work with a := a, n := n, p := p } }

/-- As `at'`, with a pending `Issue` of kind `k` for `(a, n)` from the labels `q`, at label `l`. -/
def issuing (op : BitVec 4) (l : Label) (q : List Label) (k : Kind) (a n : Word)
    (ans : Answer := .ok ⟨0, 0, 0, 0⟩) : State :=
  { at' op (l :: q) ans with work.arg := ⟨k, a, n, 0⟩, work.op := op, work.cmd := encodeCmd Config.pQuad k a n }

/-- The state with a schedule. -/
def withEvents (s : State) (es : List Event) : State := { s with io.events := es }

/-! ### Decoding: V-HOP, V-ENC -/

theorem test_decode_host_words :
    [0, 1, 2, 3, 4, 5, 6, 7, 8, 9, 10, 11, 12, 13, 14, 15].map (fun v => dec (.hostWord v)) =
      [Instr.reserved0, .init, .getInfo, .read, .write, .eraseBlock, .eraseChip, .getStatus, .suspendErase,
        .resumeErase, .enterLowPower, .leaveLowPower, .reservedC, .reservedD, .reservedE, .reservedF].map some := by
  decide

theorem test_decode_ignores_high_bits : dec (.hostWord 0x00000013) = some .read := by decide

theorem test_decode_rd_status : dec (.descriptor ⟨0x00040105, 0, 0, 1⟩) = some .kRdStatus := by decide
theorem test_decode_rd_security : dec (.descriptor ⟨0x0004012B, 0, 0, 1⟩) = some .kRdSecurity := by decide
theorem test_decode_rd_cfg : dec (.descriptor ⟨0x00040115, 0, 0, 2⟩) = some .kRdCfg := by decide
theorem test_decode_wr_cfg : dec (.descriptor ⟨0x00140101, 0, 0, 3⟩) = some (.kWrCfg 3) := by decide
theorem test_decode_read_array :
    dec (.descriptor ⟨0x0088A9EB, 0x00012345, 0xAA, 0x12C⟩) = some (.kReadArray 0x12345 300) := by decide
theorem test_decode_page_program :
    dec (.descriptor ⟨0x00182938, 0x000001F0, 0, 16⟩) = some (.kPageProgram 0x1F0 16) := by decide
theorem test_decode_erase_block :
    dec (.descriptor ⟨0x000025D8, 0x007F0000, 0, 0⟩) = some (.kEraseBlock 0x7F0000) := by decide
theorem test_decode_chip_erase : dec (.descriptor ⟨0x00000160, 0, 0, 0⟩) = some .kChipErase := by decide
theorem test_decode_write_enable : dec (.descriptor ⟨0x00000106, 0, 0, 0⟩) = some .kWriteEnable := by decide
theorem test_decode_lp_enter : dec (.descriptor ⟨0x000001B9, 0, 0, 0⟩) = some .kLpEnter := by decide
theorem test_decode_lp_exit : dec (.descriptor ⟨0x000001AB, 0, 0, 0⟩) = some .kLpExit := by decide
theorem test_decode_memmap : dec (.descriptor ⟨0x0088A9EB, 0, 0xAA, 0⟩) = some .kMemmapCfg := by decide
theorem test_decode_suspend : dec (.descriptor ⟨0x00000175, 0, 0, 0⟩) = some .kSuspend := by decide
theorem test_decode_resume : dec (.descriptor ⟨0x0000017A, 0, 0, 0⟩) = some .kResume := by decide

/-- One word of each family, field by field from bit 31 down as R64 lists them: reserved, dummy, ddir, dmode, absize,
abmode, asize, amode, imode, opcode. -/
theorem test_decode_bit_by_bit :
    dec (.descriptor ⟨0b000000#6 ++ 0b00000#5 ++ 0b0#1 ++ 0b01#2 ++ 0b00#2 ++ 0b00#2 ++ 0b00#2 ++ 0b00#2 ++ 0b01#2
        ++ 0b00101011#8, 0, 0, 1⟩) = some .kRdSecurity
    ∧ dec (.descriptor ⟨0b000000#6 ++ 0b00100#5 ++ 0b0#1 ++ 0b10#2 ++ 0b00#2 ++ 0b10#2 ++ 0b10#2 ++ 0b10#2 ++ 0b01#2
        ++ 0b11101011#8, 7, 0b10101010, 9⟩) = some (.kReadArray 7 9)
    ∧ dec (.descriptor ⟨0b000000#6 ++ 0b00000#5 ++ 0b0#1 ++ 0b00#2 ++ 0b00#2 ++ 0b00#2 ++ 0b00#2 ++ 0b00#2 ++ 0b01#2
        ++ 0b10111001#8, 0, 0, 0⟩) = some .kLpEnter
    ∧ dec (.hostWord (0b1010110100000000000000000000#28 ++ 0b0100#4)) = some .write := by decide

/-- Each refusal of the decoder; the first is the refused word of V-DEC. -/
theorem test_decode_refusals :
    decode Config.pQuad (.descriptor ⟨0x04000106, 0, 0, 0⟩) = .error .reservedBits
    ∧ decode Config.pQuad (.descriptor ⟨0x00000199, 0, 0, 0⟩) = .error .unknownOpcode
    ∧ decode Config.pQuad (.descriptor ⟨0x00000206, 0, 0, 0⟩) = .error .fieldsNotOfKind
    ∧ decode Config.pQuad (.descriptor ⟨0x00000106, 1, 0, 0⟩) = .error .nonCanonicalZero
    ∧ decode Config.pQuad (.descriptor ⟨0x0088A9EB, 1, 0xAA, 0⟩) = .error .emptyRead := by decide

/-- V-ENC for another configuration: 32-bit addresses. -/
theorem test_encode_wide_address :
    encode { Config.pQuad with addrBits := .a32, capacity := 2 ^ 32 } (.kReadArray 0x01234567 16)
      = .descriptor ⟨0x0088B9EB, 0x01234567, 0xAA, 0x10⟩ := by decide

/-- V-ENC for another configuration: every array phase on one line, eight dummy cycles. -/
theorem test_encode_single_line :
    encode { Config.pQuad with amArray := .one, abm := .one, dmArray := .one, dummyRead := 8 } (.kReadArray 0x100 4)
      = .descriptor ⟨0x010465EB, 0x100, 0xAA, 4⟩ := by decide

/-- The cycle counts of V-ENC (R76). -/
theorem test_cycles :
    (encodeCmd Config.pQuad .rdCfg 0 0).cycles true = 24
    ∧ (encodeCmd Config.pQuad .readArray 0x12345 300).cycles true = 620
    ∧ (encodeCmd Config.pQuad .memmapCfg 0 0).cycles false = 20
    ∧ (encodeCmd Config.pQuad .pageProgram 0x1F0 16).cycles true = 46
    ∧ (encodeCmd Config.pQuad .eraseBlock 0x30000 0).cycles false = 32 := by decide

/-- R75: the phases of a read in order, and no data phase where no data primitive follows. -/
theorem test_wire_image :
    wireImage Config.pQuad .readArray 0x100 4 =
      [.instruction 0xEB .l1, .address 0x100 .b24 .l4, .alternate 0xAA .b8 .l4, .dummy 4, .data .rx 4 .l4]
    ∧ wireImage Config.pQuad .memmapCfg 0 0 =
      [.instruction 0xEB .l1, .address 0 .b24 .l4, .alternate 0xAA .b8 .l4, .dummy 4] := by decide

/-- The host line `READ 0x100, 16, 0x40` of V-HOP. -/
theorem test_host_line :
    (HostLine.read 0x100 16 0x40).writes = [(0x04, 0x100), (0x08, 0x10), (0x0C, 0x40), (0x00, 3)] := by decide

/-- The bits of a table row, packed words counting up from bit 0. -/
theorem test_decode_table_word :
    decodeTableWord 8 0x05 = some .eraseBlock ∧ decodeTableWord 32 0x00000160 = some .kChipErase
    ∧ decodeTableWord 128 (0x0088A9EB + 0x12345 * 2 ^ 32 + 0xAA * 2 ^ 64 + 300 * 2 ^ 96)
      = some (.kReadArray 0x12345 300) := by decide

/-! ### Well-formedness: each check refuses an ill-formed term -/

/-- The memory of the reset state is canonical. -/
theorem test_reset_memory : State.reset.hb.wf = true := by decide

theorem test_valid_p_quad : Config.pQuad.valid = true ∧ Config.pQuad.opcodesDistinct = true := by decide

theorem test_geometry_refused :
    { Config.pQuad with pageSize := 0 }.geometryOk = false
    ∧ { Config.pQuad with blockSize := 0 }.geometryOk = false
    ∧ { Config.pQuad with capacity := 8388609 }.geometryOk = false
    ∧ { Config.pQuad with pageSize := 100 }.geometryOk = false := by decide

theorem test_capacity_refused :
    { Config.pQuad with capacity := 2 ^ 24 + 65536 }.capacityFits = false
    ∧ { Config.pQuad with addrBits := .a32, capacity := 2 ^ 32 + 65536 }.capacityFits = false := by decide

theorem test_masks_refused :
    { Config.pQuad with srWip := 0 }.masksNonzero = false ∧ { Config.pQuad with srWel := 0 }.masksNonzero = false
    ∧ { Config.pQuad with srWideEn := 0 }.masksNonzero = false
    ∧ { Config.pQuad with secPsusp := 0 }.masksNonzero = false
    ∧ { Config.pQuad with secEsusp := 0 }.masksNonzero = false
    ∧ { Config.pQuad with secPfail := 0 }.masksNonzero = false
    ∧ { Config.pQuad with secEfail := 0 }.masksNonzero = false
    ∧ { Config.pQuad with cfgHpMask := 0 }.masksNonzero = false := by decide

theorem test_overlap_refused :
    { Config.pQuad with srWel := 0x01 }.srDisjoint = false ∧ { Config.pQuad with srWideEn := 0x41 }.srDisjoint = false
    ∧ { Config.pQuad with srWideEn := 0x42 }.srDisjoint = false := by decide

theorem test_cfg_reg_refused :
    { Config.pQuad with cfgLen := 0, cfgHpByte := 0 }.cfgRegOk = false
    ∧ { Config.pQuad with cfgLen := 4 }.cfgRegOk = false
    ∧ { Config.pQuad with cfgHpByte := 2 }.cfgRegOk = false := by decide

theorem test_equal_opcodes_refused : { Config.pQuad with opcLpExit := 0x05 }.opcodesDistinct = false := by decide

theorem test_wr_cfg_length_refused :
    (Instr.kWrCfg 0).wf Config.pQuad = false ∧ (Instr.kWrCfg 5).wf Config.pQuad = false := by decide

theorem test_read_array_refused :
    (Instr.kReadArray 0 0).wf Config.pQuad = false ∧ (Instr.kReadArray 0x7FFFFF 2).wf Config.pQuad = false := by decide

theorem test_page_program_refused :
    (Instr.kPageProgram 0x800000 1).wf Config.pQuad = false ∧ (Instr.kPageProgram 0 0).wf Config.pQuad = false
    ∧ (Instr.kPageProgram 0x1F0 17).wf Config.pQuad = false := by decide

theorem test_erase_block_refused :
    (Instr.kEraseBlock 0x800000).wf Config.pQuad = false ∧ (Instr.kEraseBlock 0x100).wf Config.pQuad = false := by decide

/-! ### Host operations, one step each -/

/-- V-INIT-2 `IN.5`: status byte 0x00 gives the payload 0x40. -/
theorem test_init_status_payload :
    next (exec .init (at' 1 [.in5])) (fun t => (t.work.regbuf.take 1, t.work.arg.kind, t.work.arg.n))
      = some ([0x40], .wrCfg, 1) := by decide

/-- V-INIT-2 `IN.11`: status byte 0x40 and configuration 0, 0 give the payload 0x40, 0x00, 0x02. -/
theorem test_init_config_payload :
    next (exec .init { at' 1 [.in11] with work.srT := 0x40, work.op := 1 })
      (fun t => (t.work.regbuf.take 3, t.work.arg.n)) = some ([0x40, 0x00, 0x02], 3) := by decide

/-- V-START, GET_INFO right after reset. -/
theorem test_get_info :
    next (exec .getInfo { State.reset with seq := [.gi1], work.op := 2 }) (fun t => (List.range 6).map (fun i =>
      regRead t (10 + i))) = some [0x800000, 0x100, 0x10000, 0x1388, 0xDAC, 0x3A980] := by decide

theorem test_get_info_completes :
    next (exec .getInfo { State.reset with seq := [.gi1], work.op := 2 }) (fun t => (t.regs.result, t.statWord))
      = some (0, 0x02) := by decide

/-- V-START after INIT: the last byte and one beyond it. -/
theorem test_read_out_of_range :
    next (exec .read (at3 3 [.start1] 0x7FFFFF 2 0)) (fun t => (t.regs.result, t.statWord)) = some (4, 0x06) := by
  decide

/-- V-OPS-3: length 0 at the end of the device is in range. -/
theorem test_read_empty_in_range :
    next (exec .read (at3 3 [.start1] 0x800000 0 0)) (fun t => t.seq) = some [.rd1] := by decide

/-- V-SPL-2: the first chunk at address 255 is one byte. -/
theorem test_write_first_chunk :
    next (exec .write (at3 4 [.wr1] 255 257 0)) (fun t => (t.work.cur, t.work.off, t.work.chunk, t.seq))
      = some (255, 0, 1, [.wr2]) := by decide

/-- V-SPL-15: from (768, 518, 256) to (1024, 774, 226). -/
theorem test_write_advance :
    next (exec .write
        { at3 4 [.wr5] 250 1000 0 with
          work := { (at3 4 [.wr5] 250 1000 0).work with cur := 768, off := 518, chunk := 256 } })
      (fun t => (t.work.cur, t.work.off, t.work.chunk, t.regs.progress)) = some (1024, 774, 226, 774) := by decide

/-- V-START: block 128 does not exist. -/
theorem test_erase_block_out_of_range :
    next (exec .eraseBlock (at3 5 [.start1] 128 0 0)) (fun t => t.regs.result) = some 4 := by decide

/-- V-OPS-5: block 127 is at 0x7F0000. -/
theorem test_erase_block_address :
    next (exec .eraseBlock (at3 5 [.eb2] 127 0 0)) (fun t => (t.work.arg.kind, t.work.arg.a))
      = some (.eraseBlock, 0x7F0000) := by decide

/-- R203: before INIT. -/
theorem test_erase_chip_uninitialised :
    next (exec .eraseChip { State.reset with seq := [.start1], work.op := 6 }) (fun t => (t.regs.result, t.statWord))
      = some (5, 0x02) := by decide

/-- R173, R144: the chip-erase poll waits for `SR_WIP` with `T_CHIP_ERASE`. -/
theorem test_erase_chip_poll :
    next (exec .eraseChip (at' 6 [.poll1, .ec3])) (fun t => (t.work.pmask, t.work.pmatch, t.work.tmr))
      = some (0x01, 0x00, 240000) := by decide

/-- V-CLS: 0x41, 0x40 is FAILED, which outranks BUSY. -/
theorem test_get_status_failed :
    next (exec .getStatus { at' 7 [.gs3, .gst1] with work.srT := 0x41, work.secT := 0x40 })
      (fun t => (t.work.sf, regRead t 7, t.seq)) = some (0b001001#6, 3, [.gst2]) := by decide

/-- V-CLS: 0x41, 0x08 is SUSPENDED, which outranks BUSY. -/
theorem test_get_status_suspended :
    next (exec .getStatus { at' 7 [.gs3, .gst1] with work.srT := 0x41, work.secT := 0x08 }) (fun t => regRead t 7)
      = some 2 := by decide

/-- R199: nothing to suspend, `RESULT = 0x100`. -/
theorem test_suspend_when_ready :
    next (exec .suspendErase { at' 8 [.su2] with work.gsT := .ready }) (fun t => (t.regs.result, t.io.trace.length))
      = some (0x100, 0) := by decide

theorem test_suspend_when_busy :
    next (exec .suspendErase { at' 8 [.su2] with work.gsT := .busy }) (fun t => (t.work.arg.kind, t.seq))
      = some (.suspend, [.issue1, .su2]) := by decide

/-- S7: resume on a Ready chip. -/
theorem test_resume_when_ready :
    next (exec .resumeErase { at' 9 [.rs2] with work.gsT := .ready }) (fun t => (t.regs.result, t.io.trace.length))
      = some (0x100, 0) := by decide

theorem test_resume_when_suspended :
    next (exec .resumeErase { at' 9 [.rs2] with work.gsT := .suspended }) (fun t => (t.work.arg.kind, t.seq))
      = some (.resume, [.issue1, .rs2]) := by decide

theorem test_enter_low_power :
    next (exec .enterLowPower (at' 10 [.le1])) (fun t => (t.work.arg.kind, t.seq))
      = some (.lpEnter, [.issue1, .le1]) := by decide

theorem test_leave_low_power :
    next (exec .leaveLowPower (at' 11 [.ll2])) (fun t => (t.regs.result, t.statWord)) = some (0, 0x06) := by decide

/-- V-START: a reserved code ends with BADOP before and after INIT. -/
theorem test_reserved_codes :
    [Instr.reserved0, .reservedC, .reservedD, .reservedE, .reservedF].map (fun i =>
      next (exec i { State.reset with seq := [.start1] }) (fun t => (t.regs.result, t.statWord)))
      = List.replicate 5 (some (6, 0x02)) := by decide

/-! ### Link commands, one step each -/

/-- The words the link sees at `ISSUE.1` are those of V-ENC. -/
theorem test_commands_sent :
    [(Instr.kRdStatus, 0x00040105#32), (.kRdSecurity, 0x0004012B), (.kRdCfg, 0x00040115), (.kWrCfg 1, 0x00140101),
      (.kReadArray 0 1, 0x0088A9EB), (.kPageProgram 0 256, 0x00182938), (.kEraseBlock 0x30000, 0x000025D8),
      (.kChipErase, 0x00000160), (.kWriteEnable, 0x00000106), (.kLpEnter, 0x000001B9), (.kLpExit, 0x000001AB),
      (.kMemmapCfg, 0x0088A9EB), (.kSuspend, 0x00000175), (.kResume, 0x0000017A)].all (fun x =>
        next (exec x.1 (at' 0 [.issue1])) (fun t => t.work.cmd.pack.cw0) == some x.2) = true := by decide

/-- The received status byte lands in `REGBUF[0]`, the other three bytes stay (R127, V-POLL-2). -/
theorem test_rd_status_receives :
    next (exec .kRdStatus (issuing 4 .issue2 [.poll2, .wren2, .wr2] .rdStatus 0 0 (.ok ⟨0x42, 9, 9, 9⟩)))
      (fun t => (t.work.regbuf, t.seq)) = some (⟨0x42, 0, 0, 0⟩, [.poll3, .wren2, .wr2]) := by decide

/-- V-GS-4: an error of the first receive. -/
theorem test_rd_security_error :
    next (exec .kRdSecurity (issuing 7 .issue2 [.gs1, .gst1] .rdSecurity 0 0 .error))
      (fun t => (t.regs.result, t.seq, t.regs.statusOut)) = some (1, [], .ready) := by decide

/-- V-INIT-2 `IN.13`: the configuration bytes 0x00, 0x02 verify. -/
theorem test_rd_cfg_verified :
    next (exec .kRdCfg (issuing 1 .issue2 [.in13] .rdCfg 0 0 (.ok ⟨0x00, 0x02, 0, 0⟩))) (fun t => t.seq)
      = some [.in14] := by decide

/-- V-ERR: verification in step 3 fails with 0x33. -/
theorem test_rd_cfg_not_verified :
    next (exec .kRdCfg { issuing 1 .issue2 [.in13] .rdCfg 0 0 (.ok ⟨0x02, 0x00, 0, 0⟩) with work.stage := 3 })
      (fun t => t.regs.result) = some 0x33 := by decide

/-- V-INIT-2 `IN.11`: the payload the link receives. -/
theorem test_wr_cfg_payload :
    next (exec (.kWrCfg 3) { issuing 1 .issue2 [.in11] .wrCfg 0 3 with work.regbuf := ⟨0x40, 0x00, 0x02, 0x77⟩ })
      (fun t => (t.io.trace, t.seq)) = some ([.txb [0x40, 0x00, 0x02] 5000 true], [.in12]) := by decide

/-- V-WAIT-5: a stale signal wins over the expired timer. -/
theorem test_read_array_stale_signal :
    next (exec (.kReadArray 0 1) { issuing 3 .wait2 [.issue3, .rd2] .readArray 0 1 with regs.rxsig := 1 })
      (fun t => (t.regs.rxsig, t.work.waited, t.seq)) = some (0, .ok, [.issue4, .rd2]) := by decide

/-- V-WAIT-4, then R127: the time-out ends the READ with 0x002 and the handle released. -/
theorem test_read_array_timeout :
    next (exec (.kReadArray 0 1)
        { issuing 3 .issue4 [.rd2] .readArray 0 1 with work.waited := .timeout, regs.rxh := true })
      (fun t => (t.regs.result, t.statWord)) = some (2, 0x06) := by decide

/-- P1: `txa 0x0, 256` is accepted. -/
theorem test_page_program_accepted :
    next (exec (.kPageProgram 0 256) (issuing 4 .issue2 [.wr3] .pageProgram 0 256))
      (fun t => (t.regs.txh, t.io.trace, t.link.tx)) = some (true, [.txa 0 256 true], [⟨0, 256, []⟩]) := by decide

/-- R131: neither signal nor expired timer, no step. -/
theorem test_page_program_waits :
    next (exec (.kPageProgram 0 256) { issuing 4 .wait2 [.issue3, .wr3] .pageProgram 0 256 with work.tmr := 1 })
      (fun t => t.seq) = some [.wait2, .issue3, .wr3] := by decide

/-- V-OPS-10: a refused command ends the operation with 0x001. -/
theorem test_lp_enter_error :
    next (exec .kLpEnter (issuing 10 .issue1 [.le1] .lpEnter 0 0 .error)) (fun t => t.regs.result) = some 1 := by decide

/-! ### The other agents -/

/-- R165: a write to `OPCMD` while idle latches the operands. -/
theorem test_start :
    next (step (withEvents { State.reset with regs.addr := 7, regs.len := 8 } [.hostWrite 0 .word 0x13]))
      (fun t => (t.work.op, t.work.a, t.work.n, t.seq, t.statWord)) = some (3, 7, 8, [.start1], 0x01) := by decide

/-- V-START, READ in progress: the host's write is ignored. -/
theorem test_write_while_busy :
    next (step (withEvents (at' 3 [.rd1]) [.hostWrite 4 .word 7])) (fun t => (t.regs.addr, t.seq))
      = some (0, [.rd1]) := by decide

/-- V-WAIT-7: the signal saturates. -/
theorem test_signal_saturates :
    next (step (withEvents { State.reset with regs.rxsig := 0xFFFFFFFF } [.cbRx none])) (fun t => t.regs.rxsig)
      = some 0xFFFFFFFF := by decide

/-- V-WAIT-8: a tick at 0. -/
theorem test_tick_at_zero : next (step (withEvents State.reset [.tick])) (fun t => t.work.tmr) = some 0 := by decide

/-- V-RST-2: reset while READ waits. -/
theorem test_reset_while_waiting :
    next (step (withEvents { issuing 3 .wait2 [.issue3, .rd2] .readArray 0 1 with regs.rxh := true, link.rx := [⟨0, 1⟩] }
      [.rst])) (fun t => (t.statWord, t.seq, t.link.rx)) = some (0, [], [⟨0, 1⟩]) := by decide

/-- R43: the received bytes land in `HB` in address order. -/
theorem test_receive_stores :
    next (step (withEvents { State.reset with link.rx := [⟨0x200, 2⟩] } [.cbRx (some (0, [0xAB, 0xCD]))]))
      (fun t => (t.hb, t.regs.rxsig)) = some ([(0x200, 0xAB), (0x201, 0xCD)], 1) := by decide

/-! ### Placing an instruction -/

theorem test_with_fetch_word_host :
    next (step (State.reset.withFetchWord 8 0x0F)) (fun t => t.regs.result) = some 6 := by decide

theorem test_with_fetch_word_link :
    next (step (State.reset.withFetchWord 32 0x00000106)) (fun t => (t.work.cmd.pack.cw0, t.seq))
      = some (0x00000106, []) := by decide


/-! ### Witnesses: the hypotheses of the statements are met -/

theorem wit_decode_of_encode :
    Config.pQuad.valid = true ∧ Config.pQuad.opcodesDistinct = true ∧ (Instr.kReadArray 0x7FFFFF 1).wf Config.pQuad = true
    ∧ (Instr.kPageProgram 0x1F0 16).wf Config.pQuad = true ∧ (Instr.kWrCfg 4).wf Config.pQuad = true
    ∧ (Instr.kEraseBlock 0x7F0000).wf Config.pQuad = true ∧ Instr.kMemmapCfg.wf Config.pQuad = true
    ∧ Instr.reservedF.wf Config.pQuad = true := by decide

/-- `StepRunsTheFetchedInstruction`: a label of an operation and a label of `Issue`. -/
theorem wit_step_runs :
    (∃ s : State, s.cfg.valid = true ∧ s.io.events = [.ctrl .error] ∧ s.seq = [.start1] ∧ Label.start1.isTransport = false
      ∧ decode s.cfg (.hostWord (s.work.op.setWidth 32)) = .ok .write)
    ∧ ∃ s : State, s.cfg.valid = true ∧ s.io.events = [.ctrl .error] ∧ s.seq = [.wait2, .issue3, .rd2]
      ∧ Label.wait2.isTransport = true ∧ s.work.arg.kind.instr s.work.arg.a s.work.arg.n = .kReadArray 5 6 :=
  ⟨⟨withEvents (at' 4 [.start1]) [.ctrl .error], by decide⟩,
    ⟨withEvents (issuing 3 .wait2 [.issue3, .rd2] .readArray 5 6) [.ctrl .error], by decide⟩⟩

/-- `StepWithoutAnInstruction`: each of its three clauses. -/
theorem wit_step_without :
    ({ State.reset with cfg.pageSize := 0 } : State).cfg.valid = false
    ∧ (State.reset.cfg.valid = true ∧ State.reset.io.events = [])
    ∧ (withEvents State.reset [.ctrl .error]).cfg.valid = true
    ∧ (withEvents State.reset [.ctrl .error]).io.events = [.ctrl .error]
    ∧ (withEvents State.reset [.ctrl .error]).seq = [] := by decide

/-- `StartLatchesOperands`, `OperandAndReadOnlyWrites`: idle, a write to register 0, 1, 2, 3, 4, 15. -/
theorem wit_idle_writes :
    ∀ i ∈ [0, 1, 2, 3, 4, 15], ∃ s : State, s.cfg.valid = true ∧ s.seq = []
      ∧ s.io.events = [.hostWrite (s.cfg.regBase + 4 * i) .word 0xFFFFFFFF] :=
  fun i _ => ⟨withEvents State.reset [.hostWrite (State.reset.cfg.regBase + 4 * i) .word 0xFFFFFFFF],
    (by decide : Config.pQuad.valid = true), rfl, rfl⟩

/-- `WritesWhileBusyAreIgnored`: the first and the last register. -/
theorem wit_busy_writes :
    ∀ i ∈ [0, 15], ∃ s : State, s.cfg.valid = true ∧ s.seq ≠ [] ∧ i < 16
      ∧ s.io.events = [.hostWrite (s.cfg.regBase + 4 * i) .word 5] := by
  intro i h
  refine ⟨withEvents (at' 3 [.rd1]) [.hostWrite (State.reset.cfg.regBase + 4 * i) .word 5],
    (by decide : Config.pQuad.valid = true), List.cons_ne_nil _ _, ?_, rfl⟩
  simp at h
  omega

/-- `RegisterReadsHaveNoSideEffect`: registers 0, 4 (all its bits but TXH) and 15. -/
theorem wit_register_reads :
    ∀ x ∈ [(0, 3#32), (4, 0x17), (15, 9)], ∃ s : State, s.cfg.valid = true
      ∧ s.io.events = [.hostRead (s.cfg.regBase + 4 * x.1) .word]
      ∧ [s.regs.opcmd.setWidth 32, s.regs.addr, s.regs.len, s.regs.bufptr,
        BitVec.ofNat 32 ((if s.seq = [] then 0 else 1) + 2 * s.regs.done.toNat + 4 * s.regs.inited.toNat
          + 16 * s.regs.rxh.toNat + 32 * s.regs.txh.toNat),
        s.regs.result, s.regs.progress,
        (if s.regs.statusOut = .ready then 0 else if s.regs.statusOut = .busy then 1
          else if s.regs.statusOut = .suspended then 2 else 3),
        s.regs.rxsig, s.regs.txsig, s.regs.info0, s.regs.info1, s.regs.info2, s.regs.info3, s.regs.info4,
        s.regs.info5][x.1]? = some x.2 := by
  intro x h
  refine ⟨withEvents { at' 3 [.rd1] with regs := { State.reset.regs with
      opcmd := 3, done := true, inited := true, rxh := true, info5 := 9 } } [.hostRead (0 + 4 * x.1) .word],
    (by decide : Config.pQuad.valid = true), rfl, ?_⟩
  simp only [List.mem_cons, List.not_mem_nil, or_false] at h
  obtain rfl | rfl | rfl := h <;> decide

/-- `BadRegisterAccessRefused`: each of its four cases, at the edge of the window. -/
theorem wit_bad_register_access :
    ∀ x ∈ [(0xFF, Width.word), (0x100, .byte), (0x101, .word), (0x140, .word)], ∃ s : State, s.cfg.valid = true
      ∧ (x.2 ≠ .word ∨ x.1 < s.cfg.regBase ∨ (x.1 - s.cfg.regBase) % 4 ≠ 0 ∨ 0x3C < x.1 - s.cfg.regBase)
      ∧ (s.io.events = [.hostWrite x.1 x.2 0] ∨ s.io.events = [.hostRead x.1 x.2]) := by
  intro x h
  refine ⟨withEvents { State.reset with cfg.regBase := 0x100 } [.hostRead x.1 x.2],
    (by decide : ({ Config.pQuad with regBase := 0x100 } : Config).valid = true), ?_, .inr rfl⟩
  simp only [List.mem_cons, List.not_mem_nil, or_false] at h
  obtain rfl | rfl | rfl | rfl := h <;> decide

/-- `BufferWrites`, `BufferReads`: two bytes up to the end of `HB` (4096 bytes), and one address higher. -/
theorem wit_buffer_access :
    ∀ a ∈ [4094, 4095], ∀ e ∈ [Event.hbWrite a [0x11, 0x22], .hbRead a 2],
      (withEvents State.reset [e]).cfg.valid = true ∧ (withEvents State.reset [e]).hb.wf = true
      ∧ (withEvents State.reset [e]).io.events = [e]
      ∧ (a = 4094 → a + [0x11#8, 0x22#8].length ≤ State.reset.cfg.hbSize ∧ a + 2 ≤ State.reset.cfg.hbSize)
      ∧ (a = 4095 → State.reset.cfg.hbSize < a + [0x11#8, 0x22#8].length ∧ State.reset.cfg.hbSize < a + 2) := by
  decide

/-- `TickLowersTheTimer`, `CallbackRaisesTheSignal`, `ResetEvent`: the events on a valid configuration. -/
theorem wit_agent_events :
    ∀ e ∈ [Event.tick, .cbRx none, .cbTx none, .rst],
      (withEvents State.reset [e]).cfg.valid = true ∧ (withEvents State.reset [e]).io.events = [e] := by
  decide

/-- A state with one receive in flight at `ptr` and the schedule `[e]`. -/
def receiving (ptr : Word) (e : Event) : State := withEvents { State.reset with link.rx := [⟨ptr, 2⟩] } [e]

/-- A state with one transmit in flight at `ptr`, its byte 0 already read, and the schedule `[e]`. -/
def sending (ptr : Word) (e : Event) : State :=
  withEvents { State.reset with link.tx := [⟨ptr, 2, [(0, 0x77)]⟩] } [e]

/-- A READ of one byte to `ptr` whose `L_rxa` was refused, and the schedule `[e]`. -/
def refusedRead (ptr : Word) (e : Event) : State :=
  withEvents { at' 3 [] with work.arg := ⟨.readArray, 0, 1, ptr⟩, work.op := 3, io.trace := [.rxa ptr 1 false] } [e]

/-- `CallbackRaisesTheSignal`: the next state of a callback of each kind, a transfer that does not exist, and data of
another length. -/
theorem wit_callbacks :
    (∃ t, step (receiving 4094 (.cbRx (some (0, [1, 2])))) = .next t)
    ∧ (∃ t, step (sending 4094 (.cbTx (some 0))) = .next t)
    ∧ (receiving 0 (.cbRx (some (1, [])))).link.rx[1]? = none
    ∧ (∀ x, (receiving 0 (.cbRx (some (0, [1])))).link.rx[0]? = some x → [1#8].length ≠ x.len.toNat)
    ∧ (sending 0 (.cbTx (some 1))).link.tx[1]? = none := by
  refine ⟨⟨_, rfl⟩, ⟨_, rfl⟩, by decide, ?_, by decide⟩
  intro x h
  cases h
  decide

/-- `ReceiveCompletionStoresTheData`, completion: two bytes up to the end of `HB`, and one address higher. -/
theorem wit_receive_completion :
    ∀ ptr ∈ [4094#32, 4095#32], ∃ s : State, ∃ t : RxXfer, s.cfg.valid = true ∧ s.hb.wf = true
      ∧ s.io.events = [.cbRx (some (0, [0xAB, 0xCD]))] ∧ s.link.rx[0]? = some t
      ∧ [0xAB#8, 0xCD#8].length = t.len.toNat
      ∧ (ptr = 4094 → t.ptr.toNat + [0xAB#8, 0xCD#8].length ≤ s.cfg.hbSize)
      ∧ (ptr = 4095 → s.cfg.hbSize < t.ptr.toNat + [0xAB#8, 0xCD#8].length) := by
  intro ptr h
  refine ⟨receiving ptr (.cbRx (some (0, [0xAB, 0xCD]))), ⟨ptr, 2⟩, (by decide : Config.pQuad.valid = true),
    (by decide : Memory.wf [] = true), rfl, rfl, rfl, ?_, ?_⟩ <;> rintro rfl <;> decide

/-- `ReceiveCompletionStoresTheData`, early stores: the last byte of `HB`, the first beyond it, and no such byte. -/
theorem wit_early_store :
    (1 < (2#32).toNat ∧ (4094#32).toNat + 1 < State.reset.cfg.hbSize)
    ∧ State.reset.cfg.hbSize ≤ (4095#32).toNat + 1
    ∧ (receiving 4094 (.linkStore 0 2 9)).link.rx[0]? = some ⟨4094, 2⟩ ∧ (2#32).toNat ≤ 2
    ∧ (receiving 4094 (.linkStore 1 0 9)).link.rx[1]? = none := by decide

/-- The first and the second of those cases as steps (R43, R239). -/
theorem test_early_store :
    next (step (receiving 4094 (.linkStore 0 1 9))) (fun t => (t.hb, t.regs.rxsig)) = some ([(4095, 9)], 0)
    ∧ next (step (receiving 4095 (.linkStore 0 1 9))) (fun t => t.hb) = none := by decide

/-- `ReceiveCompletionStoresTheData`, after a refused READ: the last byte of `HB`, the first beyond it, and no such
byte. -/
theorem wit_residue :
    readFailed (refusedRead 4095 (.linkResidue 0 9)) = true ∧ 0 < (1#32).toNat
    ∧ (4095#32).toNat + 0 < State.reset.cfg.hbSize ∧ State.reset.cfg.hbSize ≤ (4096#32).toNat + 0
    ∧ readFailed State.reset = false ∧ (1#32).toNat ≤ 1
    ∧ next (step (refusedRead 4095 (.linkResidue 0 9))) (fun t => t.hb) = some [(4095, 9)] := by decide

/-- After a READ whose `L_rxa` the link refuses, its buffer may hold anything (R170, U8). -/
theorem test_refused_read_buffer :
    next (exec (.kReadArray 0 1) (issuing 3 .issue2 [.rd2] .readArray 0 1 .error))
      (fun t => (t.regs.result, readFailed t)) = some (1, true) := by decide

/-- `TransmitCompletionSendsTheBuffer`, completion: two bytes up to the end of `HB`, and one address higher. -/
theorem wit_transmit_completion :
    ∀ ptr ∈ [4094#32, 4095#32], ∃ s : State, ∃ t : TxXfer, s.cfg.valid = true ∧ s.io.events = [.cbTx (some 0)]
      ∧ s.link.tx[0]? = some t ∧ (ptr = 4094 → t.ptr.toNat + t.len.toNat ≤ s.cfg.hbSize)
      ∧ (ptr = 4095 → s.cfg.hbSize < t.ptr.toNat + t.len.toNat) := by
  intro ptr h
  refine ⟨sending ptr (.cbTx (some 0)), ⟨ptr, 2, [(0, 0x77)]⟩, (by decide : Config.pQuad.valid = true), rfl, rfl,
    ?_, ?_⟩ <;> rintro rfl <;> decide

/-- `TransmitCompletionSendsTheBuffer`, early reads: the last byte of `HB`, the first beyond it, and no such byte. -/
theorem wit_early_fetch :
    (1 < (2#32).toNat ∧ (4094#32).toNat + 1 < State.reset.cfg.hbSize)
    ∧ State.reset.cfg.hbSize ≤ (4095#32).toNat + 1
    ∧ (sending 4094 (.linkFetch 0 2)).link.tx[0]? = some ⟨4094, 2, [(0, 0x77)]⟩ ∧ (2#32).toNat ≤ 2
    ∧ (sending 4094 (.linkFetch 1 0)).link.tx[1]? = none := by decide

/-- R43: a byte read early keeps the value it had then, the other is read at the callback. -/
theorem test_early_fetch :
    next (step { sending 0 (.cbTx (some 0)) with hb := [(0, 0x11), (1, 0x22)] }) (fun t => t.link.sent)
      = some [[0x77, 0x22]] := by decide

/-- `InitSteps`, `DatalessCommands`, `DataCommandsAreSent`, `RegisterWriteReturns`, `ReadArrayTransfer`,
`PageProgramTransfer`, `LinkErrorsEndTheOperation`: a state with each answer. -/
theorem wit_answers :
    (∃ (s : State) (b : Bytes4), s.io.ans = .ok b) ∧ ∃ s : State, s.io.ans = .error :=
  ⟨⟨State.reset, ⟨0, 0, 0, 0⟩, rfl⟩, ⟨at' 0 [] .error, rfl⟩⟩

/-- `RegisterReadsReturn`: a transfer of two bytes into `REGBUF`, a configuration of two bytes. -/
theorem wit_register_reads_return :
    ∃ (s : State) (b r : Bytes4) (q : Bytes3) (n : Nat), s.io.ans = .ok b ∧ n = s.work.cmd.dlen.toNat ∧ n = 2
      ∧ (∀ j < 4, r.get j = if j < n then b.get j else s.work.regbuf.get j)
      ∧ ∀ j < 3, q.get j = if j < s.cfg.cfgLen then r.get j else s.work.cfgT.get j :=
  ⟨issuing 1 .issue2 [.in9] .rdCfg 0 0 (.ok ⟨1, 2, 3, 4⟩), ⟨1, 2, 3, 4⟩, ⟨1, 2, 0, 0⟩, ⟨1, 2, 0⟩, 2, by decide⟩

/-- `LinkErrorsEndTheOperation`: a link command of each style. -/
theorem wit_link_styles :
    (Instr.kRdCfg.linkArgs = some (.rdCfg, 0, 0) ∧ Kind.rdCfg.style = .blkRx)
    ∧ ((Instr.kWrCfg 4).linkArgs = some (.wrCfg, 0, 4) ∧ Kind.wrCfg.style = .blkTx)
    ∧ ((Instr.kReadArray 1 2).linkArgs = some (.readArray, 1, 2) ∧ Kind.readArray.style = .asyncRx)
    ∧ ((Instr.kPageProgram 1 2).linkArgs = some (.pageProgram, 1, 2) ∧ Kind.pageProgram.style = .asyncTx)
    ∧ Instr.kResume.linkArgs = some (.resume, 0, 0) := by decide

/-- `GetInfoLatchesTheGeometry`: the largest capacity that fits its register and one that does not. -/
theorem wit_geometry :
    { Config.pQuad with addrBits := .a32, capacity := 2 ^ 32 - 65536 }.valid = true
    ∧ { Config.pQuad with addrBits := .a32, capacity := 2 ^ 32 }.valid = true
    ∧ 2 ^ 32 - 65536 < 2 ^ 32 := by decide

/-- `PollUntilSteps`, `WriteEnableSteps`: a byte that matches and one that does not. -/
theorem wit_poll :
    (∃ s : State, s.work.regbuf.b0 &&& s.work.pmask = s.work.pmatch)
    ∧ ∃ s : State, s.work.regbuf.b0 &&& s.work.pmask ≠ s.work.pmatch :=
  ⟨⟨{ State.reset with work.regbuf := ⟨0x42, 0, 0, 0⟩, work.pmask := 2, work.pmatch := 2 }, by decide⟩,
    ⟨{ State.reset with work.regbuf := ⟨0x43, 0, 0, 0⟩, work.pmask := 1, work.pmatch := 0 }, by decide⟩⟩

/-- `FlagsAndClass`: each clause of the class, at the lowest and the highest flag byte it takes. -/
theorem wit_classes :
    ((0b000100#6).getLsbD 2 = true ∧ (0b111111#6).getLsbD 3 = true)
    ∧ ((0b010000#6).getLsbD 2 = false ∧ (0b010000#6).getLsbD 3 = false ∧ (0b010000#6).getLsbD 4 = true)
    ∧ ((0b110011#6).getLsbD 2 = false ∧ (0b110011#6).getLsbD 3 = false ∧ (0b110011#6).getLsbD 5 = true)
    ∧ ((0b000011#6).getLsbD 2 = false ∧ (0b000011#6).getLsbD 3 = false ∧ (0b000011#6).getLsbD 4 = false
      ∧ (0b000011#6).getLsbD 5 = false) := by decide

/-- `RangeChecks`: the capacities its clauses admit. -/
theorem wit_range :
    Config.pQuad.capacity + 1 < 2 ^ 32 ∧ { Config.pQuad with capacity := 2 ^ 32 }.capacity ≤ 2 ^ 32 := by decide

/-- `ChunksStayInsidePages`: the first, a middle and the last chunk of V-SPL-16. -/
theorem wit_chunks :
    let c := { Config.pQuad with pageSize := 100 }
    1 ≤ c.pageSize ∧ (chunks c 250 175)[0]? = some ⟨250, 0, 50⟩ ∧ (chunks c 250 175)[1]? = some ⟨300, 50, 100⟩
    ∧ (chunks c 250 175)[2]? = some ⟨400, 150, 25⟩ ∧ (chunks c 250 175).length = 3 := by decide

/-- The rows V-SPL-2 and V-SPL-8. -/
theorem test_chunks :
    chunks Config.pQuad 255 257 = [⟨255, 0, 1⟩, ⟨256, 1, 256⟩] ∧ chunks Config.pQuad 0 0 = [] := by decide

/-- WRITE between the send of its first page-program command and its data: the latch confirmed, nothing in flight. -/
def midWrite : State :=
  let s := issuing 4 .issue1 [.wr3] .pageProgram 255 1
  { s with
    work := { s.work with a := 255, n := 257, cur := 255, off := 0, chunk := 1, p := 0 }
    io := { s.io with
      events := [.ctrl (.ok ⟨0, 0, 0, 0⟩)]
      trace := [.rxb 1 5000 (some [0x42]), .send .rdStatus (encodeCmd Config.pQuad .rdStatus 0 0) true,
        .send .writeEnable (encodeCmd Config.pQuad .writeEnable 0 0) true] } }

/-- The statements about every step: their premises hold together in `midWrite`, which has a next step. -/
theorem wit_invariants :
    ControlOk midWrite ∧ HandlesOk midWrite ∧ HbOk midWrite ∧ StageOk midWrite ∧ DoneOk midWrite ∧ ResultOk midWrite
    ∧ WriteOk midWrite ∧ ProgramsInsidePages midWrite ∧ latchPhase midWrite
    ∧ latchBeforeEach midWrite.cfg midWrite.io.trace = true ∧ SignalsOk midWrite
    ∧ (∃ e rest, midWrite.io.events = e :: rest ∧ linkBehaves midWrite e = true ∧ noHazard midWrite e = true)
    ∧ ∃ t, step midWrite = .next t ∧ t.seq = [.issue2, .wr3] ∧ t.work.cmd.dlen = 1 := by
  refine ⟨⟨by decide, ?_, ?_⟩, ⟨by decide, by decide⟩, ⟨by decide, ?_⟩, .inr (by decide), fun _ => by decide, ?_,
    ⟨?_, ?_, fun _ => by decide⟩, ?_, ?_, by decide, ⟨by decide, by decide⟩, ⟨_, _, rfl, by decide, by decide⟩, ?_⟩
  · intro l h; cases h; decide
  · intro l h; cases h; decide
  · intro x h; cases h
  · intro h; exact absurd h (by decide)
  · intro h; exact absurd h (by decide)
  · intro l h _
    exact ⟨by decide, by decide, by decide, by decide, by decide, by decide, by decide⟩
  · intro cmd ok h
    simp [midWrite] at h
  · intro _; decide
  · exact ⟨_, rfl, by decide, by decide⟩

/-- `HandlesKept`, `ResultTableKept`, `SignalsStayClean`: the step that ends READ, so that the next state is idle. -/
theorem wit_ending :
    ∃ s : State, ControlOk s ∧ HandlesOk s ∧ StageOk s ∧ DoneOk s ∧ ResultOk s ∧ SignalsOk s
      ∧ (∃ e, s.io.events = [e] ∧ linkBehaves s e = true ∧ noHazard s e = true)
      ∧ ∃ t, step s = .next t ∧ t.seq = [] ∧ t.regs.done = true := by
  refine ⟨withEvents (at' 3 [.rd3]) [.ctrl .error], ⟨by decide, ?_, ?_⟩, ⟨by decide, by decide⟩, .inr (by decide),
    fun _ => by decide, ?_, ⟨by decide, by decide⟩, ⟨_, rfl, by decide, by decide⟩, ⟨_, rfl, by decide, by decide⟩⟩
  · intro l h; cases h
  · intro l h; cases h; decide
  · intro h; exact absurd h (by decide)

/-- `FailedInitLeavesUninitialised`: the step in which `IN.13` fails to verify. -/
theorem wit_failed_init :
    ∃ s : State, ControlOk s ∧ DoneOk s ∧ InitedOk s
      ∧ ∃ t, step s = .next t ∧ t.seq = [] ∧ t.regs.inited = false ∧ t.regs.result = 0x33 := by
  refine ⟨withEvents { issuing 1 .issue2 [.in13] .rdCfg 0 0 with regs.inited := false, work.stage := 3 }
    [.ctrl (.ok ⟨0x02, 0x00, 0, 0⟩)], ⟨by decide, ?_, ?_⟩, fun _ => by decide, ⟨?_, ?_⟩,
    ⟨_, rfl, by decide, by decide, by decide⟩⟩
  · intro l h; cases h; decide
  · intro l h; cases h; decide
  · intro l h _ _; decide
  · intro h; exact absurd h (by decide)

/-- `SignalsStayClean`: a transfer in flight and its completion. -/
theorem wit_signals :
    ∃ s : State, ControlOk s ∧ SignalsOk s ∧ s.io.events = [.cbRx (some (0, [7]))]
      ∧ linkBehaves s (.cbRx (some (0, [7]))) = true ∧ noHazard s (.cbRx (some (0, [7]))) = true
      ∧ ∃ t, step s = .next t ∧ t.regs.rxsig = 1 := by
  refine ⟨withEvents { issuing 3 .wait2 [.issue3, .rd2] .readArray 0 1 with link.rx := [⟨0, 1⟩] }
    [.cbRx (some (0, [7]))], ⟨by decide, ?_, ?_⟩, ⟨by decide, by decide⟩, rfl, by decide, by decide, ⟨_, rfl, by decide⟩⟩
  · intro l h; cases h; decide
  · intro l h; cases h; decide

/-- `WaitEndsWithinItsBound`: V-WAIT-6, one tick for `TMR = 1`, with the callback of the waited transfer and a host read
of STAT; and V-WAIT-4, none for `TMR = 0`. -/
theorem wit_wait :
    (∃ s : State, s.cfg.valid = true ∧ s.seq = [.wait2, .issue3, .rd2] ∧ s.work.arg.kind.style = .asyncRx
      ∧ (∀ e ∈ [Event.hostRead 0x10 .word, .tick, .cbRx (some (0, [7]))], e ≠ .rst ∧ ∀ a, e ≠ .ctrl a)
      ∧ s.work.tmr.toNat ≤ [Event.hostRead 0x10 .word, .tick, .cbRx (some (0, [7]))].count .tick
      ∧ s.io.events = [.hostRead 0x10 .word, .tick, .cbRx (some (0, [7]))] ++ [.ctrl .error]
      ∧ ∃ u, Sys2Proof.core.run 3 s = .next u)
    ∧ ∃ s : State, s.cfg.valid = true ∧ s.seq = [.wait2, .issue3, .wr3] ∧ s.work.arg.kind.style = .asyncTx
      ∧ s.work.tmr.toNat ≤ ([] : List Event).count .tick ∧ s.io.events = [] ++ [.ctrl .error]
      ∧ ∃ u, Sys2Proof.core.run 0 s = .next u := by
  refine ⟨⟨withEvents { issuing 3 .wait2 [.issue3, .rd2] .readArray 0 1 with work.tmr := 1, link.rx := [⟨0, 1⟩] }
      [.hostRead 0x10 .word, .tick, .cbRx (some (0, [7])), .ctrl .error], by decide, by decide, by decide, ?_, by decide,
      by decide, ⟨_, rfl⟩⟩,
    ⟨withEvents (issuing 4 .wait2 [.issue3, .wr3] .pageProgram 0 1) [.ctrl .error], by decide, by decide, by decide,
      by decide, by decide, ⟨_, rfl⟩⟩⟩
  intro e h
  simp only [List.mem_cons, List.not_mem_nil, or_false] at h
  obtain rfl | rfl | rfl := h <;> simp

/-- `ReadFillsTheBuffer`: one byte at the last address, into the last byte of `HB`. -/
theorem wit_read_run :
    ∃ s : State, s.cfg.valid = true ∧ s.seq = [] ∧ s.regs.inited = true ∧ s.regs.rxsig = 0 ∧ s.link.rx = []
      ∧ s.hb.wf = true ∧ s.regs.len ≠ 0 ∧ s.regs.addr.toNat + s.regs.len.toNat ≤ s.cfg.capacity
      ∧ [0x5A#8].length = s.regs.len.toNat ∧ s.regs.bufptr.toNat + s.regs.len.toNat ≤ s.cfg.hbSize
      ∧ s.io.events = .hostWrite s.cfg.regBase .word 3 :: okSteps 7 ++ .cbRx (some (0, [0x5A])) :: okSteps 3 ++ [] :=
  ⟨withEvents { State.reset with
      regs.inited := true, regs.addr := 0x7FFFFF, regs.len := 1, regs.bufptr := 4095 }
    (.hostWrite 0 .word 3 :: okSteps 7 ++ .cbRx (some (0, [0x5A])) :: okSteps 3 ++ []), by decide⟩

/-- `WriteSendsTheChunks`: V-SPL-5, two chunks. -/
theorem wit_write_run :
    ∃ s : State, s.cfg.valid = true ∧ s.cfg.hbSize ≤ 2 ^ 32 ∧ s.seq = [] ∧ s.regs.inited = true ∧ s.regs.txsig = 0
      ∧ s.link.tx = [] ∧ s.regs.addr.toNat + s.regs.len.toNat ≤ s.cfg.capacity
      ∧ s.regs.bufptr.toNat + s.regs.len.toNat ≤ s.cfg.hbSize
      ∧ 2 = (chunks s.cfg s.regs.addr.toNat s.regs.len.toNat).length
      ∧ s.io.events = .hostWrite s.cfg.regBase .word 4 :: okSteps 2
        ++ (List.replicate 2 (promptChunk s.cfg)).flatten ++ okSteps 1 ++ [] :=
  ⟨withEvents { State.reset with regs.inited := true, regs.addr := 255, regs.len := 2 }
    (.hostWrite 0 .word 4 :: okSteps 2 ++ (List.replicate 2 (promptChunk Config.pQuad)).flatten ++ okSteps 1 ++ []),
    by decide⟩

end Sys2Proof.Tests
end

section
/-! Legal positions of the sequencer, and what a call, a move and a return do to them (spec/10_state.md rule R11). -/

namespace Sys2Proof.Machine

/-- `ControlOk` over what it reads of the state: the latched operation, the label stack and the pending kind. -/
def ControlAt (op : BitVec 4) (q : List Label) (k : Kind) : Prop :=
  legalSeq op q = true ∧ (∀ l, issueCaller q = some l → l.kind = some k)
    ∧ (∀ l ∈ q.head?, styleAt l k.style = true)

theorem controlOk_iff_controlAt (s : State) : ControlOk s ↔ ControlAt s.work.op s.seq s.work.arg.kind := Iff.rfl

theorem controlAt_idle (op : BitVec 4) (k : Kind) : ControlAt op [] k :=
  ⟨rfl, fun _ h => by simp [issueCaller] at h, fun _ h => by simp at h⟩

theorem controlOk_of_idle {t : State} (h : t.seq = []) : ControlOk t := by
  rw [controlOk_iff_controlAt, h]
  exact controlAt_idle _ _

/-- A legal call: the callee's label belongs to the subroutine that the caller's label calls. -/
theorem legal_cons_cons_iff {op : BitVec 4} {l m : Label} {up : List Label} :
    legalSeq op (l :: m :: up) = true ↔ (∃ b, l.sub = some b ∧ m.calls = some b) ∧ legalSeq op (m :: up) = true := by
  simp only [legalSeq, Bool.and_eq_true, beq_iff_eq, Option.isSome_iff_exists]
  grind

theorem not_issue_wait_of_not_transport {l : Label} (h : l.isTransport = false) :
    l.sub ≠ some .issue ∧ l.sub ≠ some .wait := by
  cases l <;> simp_all [Label.isTransport, Label.sub]

/-- Outside `Issue` and `WaitFor` no command is pending, so a legal stack is all that is asked. -/
theorem controlAt_of_legal {op : BitVec 4} {l : Label} {up : List Label} (k : Kind)
    (h : legalSeq op (l :: up) = true) (hl : l.isTransport = false) : ControlAt op (l :: up) k := by
  obtain ⟨hi, hw⟩ := not_issue_wait_of_not_transport hl
  refine ⟨h, fun m hm => ?_, fun m hm => ?_⟩
  · cases up <;> simp [issueCaller, hi, hw] at hm
  · obtain rfl : l = m := by simpa using hm
    cases l <;> first | rfl | cases hl

/-- `Issue` is entered with the command its caller names. -/
theorem controlAt_issue1 {op : BitVec 4} {l : Label} {up : List Label} {k : Kind}
    (h : legalSeq op (l :: up) = true) (hc : l.calls = some .issue) (hk : l.kind = some k) :
    ControlAt op (.issue1 :: l :: up) k := by
  refine ⟨legal_cons_cons_iff.2 ⟨⟨_, rfl, hc⟩, h⟩, fun m hm => ?_, fun m hm => ?_⟩
  · obtain rfl : l = m := by simpa [issueCaller, Label.sub] using hm
    exact hk
  · obtain rfl : Label.issue1 = m := by simpa using hm
    rfl

/-- CTRL moves to another label of the same program at which the pending command can be. -/
theorem ControlAt.swap {op : BitVec 4} {l l' : Label} {up : List Label} {k : Kind} (h : ControlAt op (l :: up) k)
    (hne : l ≠ .start1) (hs : l'.sub = l.sub) (hi : l'.instr = l.instr) (hst : styleAt l' k.style = true) :
    ControlAt op (l' :: up) k := by
  obtain ⟨hleg, hcall, _⟩ := h
  refine ⟨legal_swap hs hi hne hleg, by rwa [issueCaller_swap hs], fun m hm => ?_⟩
  obtain rfl : l' = m := by simpa using hm
  exact hst

theorem ControlAt.legal {op : BitVec 4} {q : List Label} {k : Kind} (h : ControlAt op q k) :
    legalSeq op q = true := h.1

theorem ControlAt.style {op : BitVec 4} {l : Label} {up : List Label} {k : Kind} (h : ControlAt op (l :: up) k) :
    styleAt l k.style = true := h.2.2 l rfl

/-- `ISSUE.3` calls `WaitFor`. -/
theorem ControlAt.wait1 {op : BitVec 4} {up : List Label} {k : Kind} (h : ControlAt op (.issue3 :: up) k) :
    ControlAt op (.wait1 :: .issue3 :: up) k := by
  obtain ⟨hleg, hcall, hst⟩ := h
  refine ⟨legal_cons_cons_iff.2 ⟨⟨_, rfl, rfl⟩, hleg⟩, hcall, fun m hm => ?_⟩
  obtain rfl : Label.wait1 = m := by simpa using hm
  exact hst .issue3 rfl

/-- Inside `WaitFor` the caller is `ISSUE.3`; CTRL may return to it with the same pending command. -/
theorem ControlAt.issue3 {op : BitVec 4} {x : Label} {up : List Label} {k : Kind}
    (h : ControlAt op (x :: .issue3 :: up) k) : ControlAt op (.issue3 :: up) k := by
  obtain ⟨hleg, hcall, hst⟩ := h
  obtain ⟨⟨b, hx, hb⟩, hleg⟩ := legal_cons_cons_iff.1 hleg
  obtain rfl : Sub.wait = b := by simpa [Label.calls] using hb
  refine ⟨hleg, fun m hm => hcall m (by simp [issueCaller, hx, hm]), fun m hm => ?_⟩
  obtain rfl : Label.issue3 = m := by simpa using hm
  have hstx := hst x rfl
  cases x <;> simp [Label.sub] at hx <;> exact hstx

/-! ### Return from a subroutine (R11) -/

/-- The label after a call is of the caller's program, and no label at which a transfer is waited for. -/
theorem succ_of_calls {l : Label} (h : l.calls ≠ none) :
    l ≠ .start1 ∧ l.succ.sub = l.sub ∧ l.succ.instr = l.instr
      ∧ (l.succ.isTransport = false ∨ l = .issue3 ∧ l.succ = .issue4) := by
  cases l <;> simp [Label.calls] at h <;> simp [Label.succ, Label.sub, Label.instr, Label.isTransport]

/-- A return ends the operation or goes to the label after the call; `WREN.2` returns in turn (R146). -/
theorem returnTo_cons_seq {l : Label} (up : List Label) (s : State) (hl : l ≠ .wren2) :
    (returnTo (l :: up) s).seq = [] ∨ (returnTo (l :: up) s).seq = l.succ :: up := by
  cases l with
  | wren2 => exact absurd rfl hl
  | in7 | in13 => simp only [returnTo]; split <;> simp [Label.succ]
  | su2 | rs2 => exact .inl rfl
  | _ => exact .inr rfl

/-- A return from a legal position leads to a legal position, at none of the labels that wait for a transfer. -/
theorem returnTo_control {x : Label} {up : List Label} {s : State}
    (h : ControlAt s.work.op (x :: up) s.work.arg.kind) :
    ControlOk (returnTo up s)
      ∧ ∀ l ∈ (returnTo up s).seq.head?, l = .issue4 ∨ l.isTransport = false := by
  obtain ⟨hop, harg⟩ := returnTo_op_arg up s
  induction up generalizing x with
  | nil => exact ⟨controlOk_of_idle rfl, fun l hl => by simp [returnTo] at hl⟩
  | cons l up ih =>
    obtain ⟨⟨b, -, hb⟩, hleg⟩ := legal_cons_cons_iff.1 h.legal
    by_cases hw : l = .wren2
    · subst hw
      exact ih (controlAt_of_legal _ hleg rfl) hop harg
    obtain ⟨hne, hsub, hins, hsucc⟩ := succ_of_calls (l := l) (by simp [hb])
    rw [controlOk_iff_controlAt, hop, harg]
    rcases returnTo_cons_seq up s hw with hq | hq <;> rw [hq]
    · exact ⟨controlAt_idle _ _, fun m hm => by simp at hm⟩
    · refine ⟨?_, fun m hm => ?_⟩
      · rcases hsucc with hnt | ⟨rfl, -⟩
        · exact controlAt_of_legal _ (legal_swap hsub hins hne hleg) hnt
        · exact h.issue3.swap hne rfl rfl h.issue3.style
      · obtain rfl : l.succ = m := by simpa using hm
        rcases hsucc with hnt | ⟨-, h4⟩
        · exact .inr hnt
        · exact .inl h4

end Sys2Proof.Machine
end

section
/-! The position of the sequencer is kept legal (spec/10_state.md rule R11), so no step faults. -/

namespace Sys2Proof.Machine

/-! ### CTRL's labelled step keeps the position legal (R11) -/

/-- START.1 ends the operation with an error or goes to a label of the latched operation (R166). -/
theorem startStep_cases (s : State) :
    (∃ e, startStep s = raise e s)
      ∨ ∃ l, startStep s = goto l s ∧ l.instr = some (decodeOp s.work.op) := by
  have checked (g : Bool) (l : Label) (hl : l.instr = some (decodeOp s.work.op)) :
      (∃ e, startChecked g l s = raise e s)
        ∨ ∃ m, startChecked g l s = goto m s ∧ m.instr = some (decodeOp s.work.op) := by
    rcases startChecked_cases g l s with ⟨-, h⟩ | ⟨-, -, h⟩ | ⟨-, -, h⟩
    · exact .inl ⟨_, h⟩
    · exact .inl ⟨_, h⟩
    · exact .inr ⟨l, h, hl⟩
  unfold startStep
  split
  case h_1 hi => exact .inr ⟨.in1, rfl, hi ▸ rfl⟩
  case h_2 hi => exact .inr ⟨.gi1, rfl, hi ▸ rfl⟩
  case h_12 => exact .inl ⟨_, rfl⟩
  all_goals
    rename_i hi
    refine checked _ _ ?_
    rw [hi]
    rfl

/-- A label of an operation is none of `Issue` or `WaitFor`. -/
theorem not_transport_of_instr {l : Label} {i : Instr} (h : l.instr = some i) : l.isTransport = false := by
  cases l <;> first | rfl | simp [Label.instr] at h

/-- CTRL leaves START.1 for the latched operation or for IDLE. -/
theorem startStep_control {s : State} {up : List Label} (h : ControlOk s) (hs : s.seq = .start1 :: up) :
    ControlOk (startStep s) := by
  rcases startStep_cases s with ⟨e, he⟩ | ⟨l, he, hl⟩ <;> rw [he]
  · exact controlOk_of_idle rfl
  · have hleg : legalSeq s.work.op (.start1 :: up) = true := hs ▸ h.1
    obtain rfl : up = [] := by
      rcases legal_head hleg with ⟨hup, -⟩ | ⟨-, hsub⟩
      · exact hup
      · exact absurd rfl hsub
    rw [controlOk_iff_controlAt, goto_seq, hs]
    exact controlAt_of_legal _ (by simp [legalSeq, hl]) (not_transport_of_instr hl)

section Moves

variable {s t : State} {l m : Label} {up : List Label}

/-- CTRL moves on inside its micro-program, outside `Issue` and `WaitFor`. -/
theorem controlOk_goto (h : ControlOk s) (hs : s.seq = l :: up) (ht : t.seq = l :: up)
    (hop : t.work.op = s.work.op) (hne : l ≠ .start1) (hsub : m.sub = l.sub) (hi : m.instr = l.instr)
    (hm : m.isTransport = false) : ControlOk (goto m t) := by
  rw [controlOk_iff_controlAt, goto_seq, goto_work, ht, hop]
  exact controlAt_of_legal _ (legal_swap hsub hi hne (hs ▸ h.1)) hm

/-- CTRL calls a subroutine other than `Issue` and `WaitFor`. -/
theorem controlOk_call {b : Sub} (h : ControlOk s) (hs : s.seq = l :: up) (hc : l.calls = some b) (hb : m.sub = some b)
    (hm : m.isTransport = false) : ControlOk (call m s) := by
  rw [controlOk_iff_controlAt, call_seq, hs]
  exact controlAt_of_legal _ (legal_cons_cons_iff.2 ⟨⟨b, hb, hc⟩, hs ▸ h.1⟩) hm

/-- CTRL calls `Issue` with the command its label names; registers of `t` other than the latched operation are free. -/
theorem controlOk_callIssue {k : Kind} {a n p : Word} (h : ControlOk s) (hs : s.seq = l :: up)
    (hc : l.calls = some .issue) (hk : l.kind = some k) (ht : t.seq = l :: up) (hop : t.work.op = s.work.op) :
    ControlOk (callIssue k a n p t) := by
  rw [controlOk_iff_controlAt]
  simp only [callIssue_seq, callIssue_work, ht, hop]
  exact controlAt_issue1 (hs ▸ h.1) hc hk

/-- CTRL returns from the subroutine of its innermost label. -/
theorem controlOk_return (h : ControlOk s) (hs : s.seq = l :: up) (hop : t.work.op = s.work.op)
    (harg : t.work.arg = s.work.arg) : ControlOk (returnTo up t) := by
  rw [controlOk_iff_controlAt, hs] at h
  exact (returnTo_control (x := l) (by rwa [hop, harg])).1

/-- CTRL moves on inside `Issue` or `WaitFor` to a label at which the pending command can be. -/
theorem controlOk_transport (h : ControlOk s) (hs : s.seq = l :: up) (ht : t.seq = m :: up)
    (hop : t.work.op = s.work.op) (harg : t.work.arg = s.work.arg) (hne : l ≠ .start1) (hsub : m.sub = l.sub)
    (hi : m.instr = l.instr) (hst : styleAt m s.work.arg.kind.style = true) : ControlOk t := by
  rw [controlOk_iff_controlAt, hs] at h
  rw [controlOk_iff_controlAt, ht, hop, harg]
  exact h.swap hne hsub hi hst

end Moves

section TransportSteps

variable {s : State} {up : List Label}

/-- `ISSUE.1` (R127). -/
theorem issueSend_control (h : ControlOk s) (hs : s.seq = .issue1 :: up) (a n : Word) :
    ControlOk (issueSend s.work.arg.kind a n up s) := by
  unfold issueSend
  split
  · exact controlOk_of_idle rfl
  · split
    · exact controlOk_return h hs rfl rfl
    next hst => exact controlOk_transport h hs rfl rfl rfl (by simp) rfl rfl (by simpa [styleAt] using hst)

/-- `ISSUE.2` (R127): a register transfer returns, an accepted async transfer goes to `ISSUE.3`. -/
theorem dataStep_control (h : ControlOk s) (hs : s.seq = .issue2 :: up) : ControlOk (dataStep up s) := by
  have hold : s.work.arg.kind.style = .asyncRx ∨ s.work.arg.kind.style = .asyncTx →
      styleAt .issue3 s.work.arg.kind.style = true := by
    rintro (h | h) <;> rw [h] <;> rfl
  unfold dataStep
  split
  next => unfold issueRxb; split; exacts [controlOk_of_idle rfl, controlOk_return h hs rfl rfl]
  next => unfold issueTxb; split; exacts [controlOk_of_idle rfl, controlOk_return h hs rfl rfl]
  next hst =>
    unfold issueRxa
    split
    · exact controlOk_of_idle rfl
    · exact controlOk_transport h hs rfl rfl rfl (by simp) rfl rfl (hold (.inl hst))
  next hst =>
    unfold issueTxa
    split
    · exact controlOk_of_idle rfl
    · exact controlOk_transport h hs rfl rfl rfl (by simp) rfl rfl (hold (.inr hst))
  next => exact h

/-- `WAIT.2` (R131): the wait goes on or returns. -/
theorem waitStep_control (h : ControlOk s) (hs : s.seq = .wait2 :: up) : ControlOk (waitStep up s) := by
  unfold waitStep
  split
  next =>
    unfold waitRx
    split
    · exact controlOk_return h hs rfl rfl
    · split
      exacts [controlOk_return h hs rfl rfl, h]
  next =>
    unfold waitTx
    split
    · exact controlOk_return h hs rfl rfl
    · split
      exacts [controlOk_return h hs rfl rfl, h]
  next => exact h

/-- `ISSUE.4` (R127): the handle is released, then the call returns or the operation ends. -/
theorem releaseStep_control (h : ControlOk s) (hs : s.seq = .issue4 :: up) : ControlOk (releaseStep up s) := by
  unfold releaseStep issueEnd
  split
  · split
    exacts [controlOk_of_idle rfl, controlOk_return h hs rfl rfl]
  · split
    exacts [controlOk_of_idle rfl, controlOk_return h hs rfl rfl]
  · exact h

end TransportSteps

/-- CTRL's labelled step leads from a legal position to a legal position, label by label (R11). -/
theorem micro_control {s : State} (h : ControlOk s) : ControlOk (micro s) := by
  cases hs : s.seq with
  | nil => simpa only [micro, hs] using h
  | cons l up =>
    cases l <;> simp only [micro, hs]
    case start1 => exact startStep_control h hs
    case in1 =>
      unfold initReset
      split
      · exact controlOk_of_idle rfl
      · exact controlOk_goto h hs hs rfl (by simp) rfl rfl rfl
    case in2 | in6 | in12 | wr4 | eb3 | ec3 | wren2 | in4 | in10 | wr2 | eb1 | ec1 | gst1 | su1 | rs1 =>
      exact controlOk_call h hs rfl rfl rfl
    case in3 | in8 => exact controlOk_callIssue h hs rfl rfl rfl rfl
    case in5 | in7 | in9 | in11 | in13 | rd2 | wr3 | eb2 | ec2 | le1 | ll1 | poll2 | wren1 | gs1 | gs2 =>
      exact controlOk_callIssue h hs rfl rfl hs rfl
    case su2 | rs2 =>
      split
      exacts [controlOk_callIssue h hs rfl rfl hs rfl, controlOk_of_idle rfl]
    case in14 | gi1 | rd3 | wr6 | eb4 | ec4 | gst2 | le2 | ll2 => exact controlOk_of_idle rfl
    case rd1 => split <;> exact controlOk_goto h hs hs rfl (by simp) rfl rfl rfl
    case wr1 => unfold writeFirst; split <;> exact controlOk_goto h hs hs rfl (by simp) rfl rfl rfl
    case wr5 =>
      unfold writeAdvance
      dsimp only
      split <;> exact controlOk_goto h hs hs rfl (by simp) rfl rfl rfl
    case issue1 => exact issueSend_control h hs _ _
    case issue2 => exact dataStep_control h hs
    case issue3 =>
      rw [controlOk_iff_controlAt, hs] at h
      rw [controlOk_iff_controlAt, call_seq, hs]
      exact h.wait1
    case issue4 => exact releaseStep_control h hs
    case wait1 =>
      have hst : styleAt .wait1 s.work.arg.kind.style = true := h.2.2 _ (by simp [hs])
      exact controlOk_transport (m := .wait2) h hs rfl rfl rfl (by simp) rfl rfl hst
    case wait2 => exact waitStep_control h hs
    case poll1 =>
      split
      next m _ _ =>
        split
        · exact controlOk_goto h hs hs rfl (by simp) rfl rfl rfl
        · exact h
      · exact h
    case poll3 =>
      unfold pollTest
      split
      · exact controlOk_return h hs rfl rfl
      · split
        exacts [controlOk_of_idle rfl, controlOk_goto h hs hs rfl (by simp) rfl rfl rfl]
    case gs3 => exact controlOk_return h hs rfl rfl

/-! ### The other agents and the whole step -/

/-- What an agent other than CTRL does to the sequencer: it leaves it alone, starts an operation while idle, or resets
the block (R165, R225). -/
theorem agentStep_control_cases {e : Event} {s t : State} (h : agentStep e s = .next t) :
    (t.seq = s.seq ∧ t.work.op = s.work.op ∧ t.work.arg = s.work.arg)
      ∨ (∃ v, s.seq = [] ∧ t = start v s) ∨ (e = .rst ∧ t = resetBlock s) := by
  cases e with
  | ctrl a => cases h; exact .inl ⟨rfl, rfl, rfl⟩
  | hostWrite addr w v =>
    simp only [agentStep] at h
    split at h
    next i _ =>
      cases h
      rcases regWrite_cases i v s with h | ⟨hs, -, h⟩ | ⟨-, -, h⟩ | ⟨-, -, h⟩ | ⟨-, -, h⟩ <;> rw [h]
      · exact .inl ⟨rfl, rfl, rfl⟩
      · exact .inr (.inl ⟨v, hs, rfl⟩)
      all_goals exact .inl ⟨rfl, rfl, rfl⟩
    next => cases h
  | hostRead addr w =>
    simp only [agentStep] at h
    split at h <;> cases h
    exact .inl ⟨rfl, rfl, rfl⟩
  | hbWrite addr d =>
    simp only [agentStep] at h
    split at h <;> cases h
    exact .inl ⟨rfl, rfl, rfl⟩
  | hbRead addr n =>
    simp only [agentStep] at h
    split at h <;> cases h
    exact .inl ⟨rfl, rfl, rfl⟩
  | tick =>
    cases h
    simp [tick_work]
  | cbRx done =>
    obtain rfl | ⟨_, _, _, _, _, _, _, _, rfl⟩ := completeRx_cases h <;> exact .inl ⟨rfl, rfl, rfl⟩
  | cbTx done =>
    obtain rfl | ⟨_, _, _, _, _, rfl⟩ := completeTx_cases h <;> exact .inl ⟨rfl, rfl, rfl⟩
  | linkStore k i b =>
    obtain rfl | ⟨_, _, _, _, _, rfl⟩ := storeEarly_cases h <;> exact .inl ⟨rfl, rfl, rfl⟩
  | linkFetch k i =>
    obtain rfl | ⟨_, _, _, _, rfl⟩ := fetchEarly_cases h <;> exact .inl ⟨rfl, rfl, rfl⟩
  | linkResidue i b =>
    obtain rfl | ⟨_, _, _, _, rfl⟩ := residue_cases h <;> exact .inl ⟨rfl, rfl, rfl⟩
  | linkDropRx k => cases h; exact .inl ⟨rfl, rfl, rfl⟩
  | linkDropTx k => cases h; exact .inl ⟨rfl, rfl, rfl⟩
  | rst => cases h; exact .inr (.inr ⟨rfl, rfl⟩)

theorem agentStep_control {e : Event} {s t : State} (h : ControlOk s) (hst : agentStep e s = .next t) :
    ControlOk t := by
  rcases agentStep_control_cases hst with ⟨hq, hop, harg⟩ | ⟨v, -, rfl⟩ | ⟨-, rfl⟩
  · rwa [controlOk_iff_controlAt, hq, hop, harg]
  · exact controlAt_of_legal _ rfl rfl
  · exact controlOk_of_idle rfl

/-- Taking the event off the schedule leaves the position. -/
theorem takeEvent_control {s : State} (h : ControlOk s) (e : Event) (rest : List Event) :
    ControlOk (s.takeEvent e rest) := by
  rw [controlOk_iff_controlAt] at *
  simpa only [takeEvent_work, takeEvent_seq] using h

/-- Settles O47: CTRL's labelled step and every agent's step keep the position legal. -/
theorem legalSequencerKept : Obligations.LegalSequencerKept := by
  intro s t h hst
  rcases step_micro h hst with rfl | ⟨_, rest, -, -, rfl⟩ | ⟨_, rest, -, -, rfl⟩ | ⟨e, rest, -, -, ha⟩
  · exact h
  · exact takeEvent_control h _ _
  · exact micro_control (takeEvent_control h _ _)
  · exact agentStep_control (takeEvent_control h _ _) ha

/-! ### No fault -/

/-- Every branch of another agent's step gives a next state or a refusal. -/
theorem agentStep_ne_fault (e : Event) (s : State) (r : Fault) : agentStep e s ≠ .fault r := by
  intro h
  cases e <;> simp only [agentStep, completeRx, completeTx, storeEarly, fetchEarly, residue] at h <;>
    repeat' split at h
  all_goals cases h

/-- Settles O48: CTRL's step of a legal position is `micro`, which is no fault, and no agent faults. -/
theorem noFaultFromALegalPosition : Obligations.NoFaultFromALegalPosition := by
  intro s r h hf
  unfold step at hf
  split at hf
  · split at hf
    · cases hf
    next ans rest _ =>
      unfold ctrlStep at hf
      split at hf
      next i hi =>
        rw [exec_micro (takeEvent_control h _ _) hi] at hf
        cases hf
      · cases hf
    · exact agentStep_ne_fault _ _ _ hf
  · cases hf

end Sys2Proof.Machine
end

section
/-! The signals and the transfers in flight (spec/41_transport_sync.md rules R126, R130; spec/10_state.md rule R21). -/

namespace Sys2Proof.Machine

/-- The receives that are signalled or in flight. -/
def State.rxCount (s : State) : Nat := s.regs.rxsig.toNat + s.link.rx.length

/-- The transmits that are signalled or in flight. -/
def State.txCount (s : State) : Nat := s.regs.txsig.toNat + s.link.tx.length

theorem signalsOk_iff_counts (s : State) :
    SignalsOk s ↔ s.rxCount = (awaits .asyncRx s).toNat ∧ s.txCount = (awaits .asyncTx s).toNat := Iff.rfl

theorem SignalsOk.of_counts {s t : State} (h : SignalsOk s) (hrx : t.rxCount = s.rxCount)
    (htx : t.txCount = s.txCount) (ha : ∀ st, awaits st t = awaits st s) : SignalsOk t := by
  rw [signalsOk_iff_counts] at *
  rwa [hrx, htx, ha, ha]

theorem counts_of_frame {s t : State} (hr : t.regs.rxsig = s.regs.rxsig) (ht : t.regs.txsig = s.regs.txsig)
    (hl : t.link = s.link) : t.rxCount = s.rxCount ∧ t.txCount = s.txCount := by
  simp only [State.rxCount, State.txCount, hr, ht, hl, and_self]

/-- CTRL awaits a transfer only at `ISSUE.3`, `WAIT.1` and `WAIT.2`. -/
theorem awaits_eq_false {s : State} (st : Style)
    (h : ∀ l ∈ s.seq.head?, l = .issue1 ∨ l = .issue2 ∨ l = .issue4 ∨ l.isTransport = false) :
    awaits st s = false := by
  unfold awaits
  split <;> first | rfl | (rename_i hs; simp [hs, Label.isTransport] at h)

theorem awaits_congr {s t : State} (hq : t.seq = s.seq) (harg : t.work.arg = s.work.arg) (st : Style) :
    awaits st t = awaits st s := by
  simp only [awaits, hq, harg]

/-- After a return from a legal position CTRL awaits nothing. -/
theorem returnTo_awaits {x : Label} {up : List Label} {s : State}
    (h : ControlAt s.work.op (x :: up) s.work.arg.kind) (st : Style) : awaits st (returnTo up s) = false :=
  awaits_eq_false st fun l hl => .inr (.inr ((returnTo_control h).2 l hl))

/-- A return leaves the signals. -/
theorem returnTo_signals (up : List Label) (s : State) :
    (returnTo up s).regs.rxsig = s.regs.rxsig ∧ (returnTo up s).regs.txsig = s.regs.txsig := by
  induction up with
  | nil => simp [returnTo]
  | cons l up ih => cases l <;> simp [returnTo, ih] <;> split <;> simp

theorem returnTo_counts (up : List Label) (s : State) :
    (returnTo up s).rxCount = s.rxCount ∧ (returnTo up s).txCount = s.txCount :=
  counts_of_frame (returnTo_signals up s).1 (returnTo_signals up s).2 (returnTo_link up s)

/-- A position at which CTRL awaits nothing and that has nothing signalled or in flight. -/
theorem signalsOk_of_quiet {s t : State} (h : SignalsOk s) (hs : ∀ st, awaits st s = false)
    (ht : ∀ st, awaits st t = false) (hc : t.rxCount = s.rxCount ∧ t.txCount = s.txCount) : SignalsOk t :=
  h.of_counts hc.1 hc.2 fun st => by rw [hs, ht]

section Ctrl

variable {s t : State} {up : List Label}

/-- A return when no transfer is signalled or in flight. -/
theorem signalsOk_returnTo {l : Label} (hc : ControlAt t.work.op (l :: up) t.work.arg.kind) (hrx : t.rxCount = 0)
    (htx : t.txCount = 0) : SignalsOk (returnTo up t) := by
  obtain ⟨hrx', htx'⟩ := returnTo_counts up t
  rw [signalsOk_iff_counts, returnTo_awaits hc, returnTo_awaits hc, hrx', htx']
  exact ⟨hrx, htx⟩

/-- A return from a position at which CTRL awaits nothing. -/
theorem signalsOk_return {l : Label} (hc : ControlOk s) (h : SignalsOk s) (hs : s.seq = l :: up)
    (hl : ∀ st, awaits st s = false) (hr : t.regs.rxsig = s.regs.rxsig) (hx : t.regs.txsig = s.regs.txsig)
    (hlink : t.link = s.link) (hop : t.work.op = s.work.op) (harg : t.work.arg = s.work.arg) :
    SignalsOk (returnTo up t) := by
  rw [controlOk_iff_controlAt, hs, ← hop, ← harg] at hc
  obtain ⟨hrx, htx⟩ := counts_of_frame hr hx hlink
  rw [signalsOk_iff_counts, hl, hl] at h
  exact signalsOk_returnTo hc (hrx.trans h.1) (htx.trans h.2)

/-- A move to a label at which CTRL still awaits nothing. -/
theorem signalsOk_move (h : SignalsOk s) (hs : ∀ st, awaits st s = false)
    (ht : ∀ l ∈ t.seq.head?, l = .issue1 ∨ l = .issue2 ∨ l = .issue4 ∨ l.isTransport = false)
    (hr : t.regs.rxsig = s.regs.rxsig) (hx : t.regs.txsig = s.regs.txsig) (hlink : t.link = s.link) : SignalsOk t :=
  signalsOk_of_quiet h hs (fun st => awaits_eq_false st ht) (counts_of_frame hr hx hlink)

/-- The end of an operation from a position at which CTRL awaits nothing. -/
theorem signalsOk_ended (h : SignalsOk s) (hs : ∀ st, awaits st s = false) (ht : t.seq = [])
    (hr : t.regs.rxsig = s.regs.rxsig) (hx : t.regs.txsig = s.regs.txsig) (hlink : t.link = s.link) : SignalsOk t :=
  signalsOk_move h hs (by simp [ht]) hr hx hlink

/-- `ISSUE.1`: nothing is accepted yet. -/
theorem issueSend_signals (hc : ControlOk s) (h : SignalsOk s) (hs : s.seq = .issue1 :: up) (k : Kind) (a n : Word) :
    SignalsOk (issueSend k a n up s) := by
  have hq (st) : awaits st s = false := by simp [awaits, hs]
  unfold issueSend
  split
  · exact signalsOk_ended h hq rfl rfl rfl rfl
  · split
    · exact signalsOk_return hc h hs hq rfl rfl rfl rfl rfl
    · exact signalsOk_move h hq (by simp) rfl rfl rfl

/-- `ISSUE.2`: an accepted async transfer is in flight and awaited from now on (R124, R125). -/
theorem dataStep_signals (hc : ControlOk s) (h : SignalsOk s) (hs : s.seq = .issue2 :: up) :
    SignalsOk (dataStep up s) := by
  have hq (st) : awaits st s = false := by simp [awaits, hs]
  obtain ⟨hrx, htx⟩ := (signalsOk_iff_counts s).1 h
  simp only [hq, State.rxCount, State.txCount, Bool.toNat_false] at hrx htx
  unfold dataStep
  split
  next =>
    unfold issueRxb
    split
    exacts [signalsOk_ended h hq rfl rfl rfl rfl, signalsOk_return hc h hs hq rfl rfl rfl rfl rfl]
  next =>
    unfold issueTxb
    split
    exacts [signalsOk_ended h hq rfl rfl rfl rfl, signalsOk_return hc h hs hq rfl rfl rfl rfl rfl]
  next hst =>
    unfold issueRxa
    split
    · exact signalsOk_ended h hq rfl rfl rfl rfl
    · simp only [SignalsOk, awaits, record_regs, record_work, record_link, hst, List.length_append,
        List.length_singleton]
      exact ⟨by rw [← Nat.add_assoc, hrx]; rfl, htx⟩
  next hst =>
    unfold issueTxa
    split
    · exact signalsOk_ended h hq rfl rfl rfl rfl
    · simp only [SignalsOk, awaits, record_regs, record_work, record_link, hst, List.length_append,
        List.length_singleton]
      exact ⟨hrx, by rw [← Nat.add_assoc, htx]; rfl⟩
  next => exact h

/-- `WAIT.2` on `RXSIG`: the awaited receive's signal is consumed, or the wait goes on. -/
theorem waitRx_signals (hc : ControlOk s) (h : SignalsOk s) (hs : s.seq = .wait2 :: up)
    (hst : s.work.arg.kind.style = .asyncRx) (hz : s.work.tmr ≠ 0 ∨ s.regs.rxsig ≠ 0) :
    SignalsOk (waitRx up s) := by
  obtain ⟨hrx, htx⟩ := h
  rw [controlOk_iff_controlAt, hs] at hc
  have hone : s.regs.rxsig.toNat + s.link.rx.length = 1 := by simp only [hrx, awaits, hs, hst]; rfl
  have hnone : s.regs.txsig.toNat + s.link.tx.length = 0 := by simp only [htx, awaits, hs, hst]; rfl
  unfold waitRx
  split
  next hsig =>
    refine signalsOk_returnTo hc ?_ hnone
    simp only [State.rxCount]
    bv_omega
  next hsig =>
    rw [if_neg (hz.resolve_right hsig)]
    exact ⟨hrx, htx⟩

/-- `WAIT.2` on `TXSIG`: the awaited transmit's signal is consumed, or the wait goes on. -/
theorem waitTx_signals (hc : ControlOk s) (h : SignalsOk s) (hs : s.seq = .wait2 :: up)
    (hst : s.work.arg.kind.style = .asyncTx) (hz : s.work.tmr ≠ 0 ∨ s.regs.txsig ≠ 0) :
    SignalsOk (waitTx up s) := by
  obtain ⟨hrx, htx⟩ := h
  rw [controlOk_iff_controlAt, hs] at hc
  have hnone : s.regs.rxsig.toNat + s.link.rx.length = 0 := by simp only [hrx, awaits, hs, hst]; rfl
  have hone : s.regs.txsig.toNat + s.link.tx.length = 1 := by simp only [htx, awaits, hs, hst]; rfl
  unfold waitTx
  split
  next hsig =>
    refine signalsOk_returnTo hc hnone ?_
    simp only [State.txCount]
    bv_omega
  next hsig =>
    rw [if_neg (hz.resolve_right hsig)]
    exact ⟨hrx, htx⟩

/-- `WAIT.2` without the hazard of R236: the wait does not time out (R131). -/
theorem waitStep_signals (hc : ControlOk s) (h : SignalsOk s) (hs : s.seq = .wait2 :: up) {ans : Answer}
    (hz : noHazard s (.ctrl ans) = true) : SignalsOk (waitStep up s) := by
  simp only [noHazard, hs, Bool.or_eq_true, bne_iff_ne, Bool.and_eq_true, beq_iff_eq] at hz
  unfold waitStep
  split
  next hst => exact waitRx_signals hc h hs hst (by simpa [hst] using hz)
  next hst => exact waitTx_signals hc h hs hst (by simpa [hst] using hz)
  next => exact h

/-- `ISSUE.4` comes after the wait: the handle is released, the signals stay. -/
theorem releaseStep_signals (hc : ControlOk s) (h : SignalsOk s) (hs : s.seq = .issue4 :: up) :
    SignalsOk (releaseStep up s) := by
  have hq (st) : awaits st s = false := by simp [awaits, hs]
  unfold releaseStep issueEnd
  split
  · split
    exacts [signalsOk_ended h hq rfl rfl rfl rfl, signalsOk_return hc h hs hq rfl rfl rfl rfl rfl]
  · split
    exacts [signalsOk_ended h hq rfl rfl rfl rfl, signalsOk_return hc h hs hq rfl rfl rfl rfl rfl]
  · exact h

/-- INIT ends with both signals cleared, which count nothing at that point (R168). -/
theorem initDone_signals (h : SignalsOk s) (hs : ∀ st, awaits st s = false) : SignalsOk (initDone s) := by
  obtain ⟨hrx, htx⟩ := h
  simp only [hs, Bool.toNat_false, Nat.add_eq_zero_iff] at hrx htx
  exact ⟨by simp [initDone, awaits, hrx.2], by simp [initDone, awaits, htx.2]⟩

/-- A labelled step outside `Issue` and `WaitFor`: CTRL awaits nothing before and after, and no signal moves but at the
end of INIT. -/
theorem micro_signals_of_not_transport {l : Label} (hc : ControlOk s) (h : SignalsOk s) (hs : s.seq = l :: up)
    (hl : l.isTransport = false) : SignalsOk (micro s) := by
  have hq (st) : awaits st s = false := awaits_eq_false st (by simp [hs, hl])
  cases l <;> simp only [micro, hs]
  case issue1 | issue2 | issue3 | issue4 | wait1 | wait2 => cases hl
  case start1 =>
    rcases startStep_cases s with ⟨e, he⟩ | ⟨l, he, hl⟩ <;> rw [he]
    · exact signalsOk_ended h hq rfl rfl rfl rfl
    · exact signalsOk_move h hq (by simp [not_transport_of_instr hl]) rfl rfl rfl
  case in1 =>
    unfold initReset
    split
    · exact signalsOk_ended h hq rfl rfl rfl rfl
    · exact signalsOk_move h hq (by simp [Label.isTransport]) rfl rfl rfl
  case in14 => exact initDone_signals h hq
  case gi1 | rd3 | wr6 | eb4 | ec4 | gst2 | le2 | ll2 => exact signalsOk_ended h hq rfl rfl rfl rfl
  case su2 | rs2 =>
    split
    exacts [signalsOk_move h hq (by simp) rfl rfl rfl, signalsOk_ended h hq rfl rfl rfl rfl]
  case rd1 => split <;> exact signalsOk_move h hq (by simp [Label.isTransport]) rfl rfl rfl
  case wr1 =>
    unfold writeFirst
    split <;> exact signalsOk_move h hq (by simp [Label.isTransport]) rfl rfl rfl
  case wr5 =>
    unfold writeAdvance
    dsimp only
    split <;> exact signalsOk_move h hq (by simp [Label.isTransport]) rfl rfl rfl
  case poll1 =>
    split
    · split
      exacts [signalsOk_move h hq (by simp [Label.isTransport]) rfl rfl rfl, h]
    · exact h
  case poll3 =>
    unfold pollTest
    split
    · exact signalsOk_return hc h hs hq rfl rfl rfl rfl rfl
    · split
      exacts [signalsOk_ended h hq rfl rfl rfl rfl,
        signalsOk_move h hq (by simp [Label.isTransport]) rfl rfl rfl]
  case gs3 => exact signalsOk_return hc h hs hq rfl rfl rfl rfl rfl
  all_goals
    exact signalsOk_move h hq (by simp [Label.isTransport, initWriteStatus, initWriteConfig]) rfl rfl rfl

/-- CTRL's labelled step, without the hazard of R236. -/
theorem micro_signals (hc : ControlOk s) (h : SignalsOk s) {ans : Answer} (hz : noHazard s (.ctrl ans) = true) :
    SignalsOk (micro s) := by
  cases hs : s.seq with
  | nil => simpa only [micro, hs] using h
  | cons l up =>
    by_cases hl : l.isTransport = false
    · exact micro_signals_of_not_transport hc h hs hl
    cases l <;> first | exact absurd rfl hl | simp only [micro, hs]
    case issue1 => exact issueSend_signals hc h hs _ _ _
    case issue2 => exact dataStep_signals hc h hs
    case issue3 | wait1 => exact h.of_counts rfl rfl fun st => by simp [awaits, hs]
    case issue4 => exact releaseStep_signals hc h hs
    case wait2 => exact waitStep_signals hc h hs hz

end Ctrl

/-! ### The other agents -/

/-- An agent other than CTRL and reset leaves what CTRL awaits. -/
theorem agentStep_awaits {e : Event} {s t : State} (hz : noHazard s e = true) (hst : agentStep e s = .next t)
    (st : Style) : awaits st t = awaits st s := by
  rcases agentStep_control_cases hst with ⟨hq, -, harg⟩ | ⟨v, hq, rfl⟩ | ⟨rfl, -⟩
  · exact awaits_congr hq harg st
  · simp [awaits, hq]
  · cases hz

/-- A signal that is not at its upper bound counts one more (R130). -/
theorem satSucc_toNat_of_lt {v : Word} (h : v.toNat < 2 ^ 32 - 1) : (satSucc v).toNat = v.toNat + 1 := by
  rw [satSucc_toNat]
  omega

/-- At most one transfer of each direction is signalled or in flight. -/
theorem SignalsOk.counts_le {s : State} (h : SignalsOk s) : s.rxCount ≤ 1 ∧ s.txCount ≤ 1 := by
  rw [signalsOk_iff_counts] at h
  exact ⟨h.1 ▸ Bool.toNat_le _, h.2 ▸ Bool.toNat_le _⟩

/-- A well-behaved `on_receive_complete` turns a receive in flight into a signal (R126, R130). -/
theorem completeRx_counts {done : Option (Nat × List Byte)} {s t : State} (h : SignalsOk s)
    (hb : linkBehaves s (.cbRx done) = true) (hst : completeRx done s = .next t) :
    t.rxCount = s.rxCount ∧ t.txCount = s.txCount := by
  obtain _ | ⟨k, d⟩ := done
  · cases hb
  simp only [linkBehaves] at hb
  split at hb
  next x hx =>
    simp only [completeRx, hx, ne_eq, beq_iff_eq.1 hb, not_true_eq_false, if_false] at hst
    split at hst
    · cases hst
    · cases hst
      have hle := h.counts_le.1
      have hlen := List.length_eraseIdx_add_one (List.getElem?_eq_some_iff.1 hx).1
      simp only [State.rxCount] at hle
      refine ⟨?_, rfl⟩
      simp only [State.rxCount, signalRx_regs, signalRx_link, satSucc_toNat_of_lt (v := s.regs.rxsig) (by omega)]
      omega
  next => cases hb

/-- A well-behaved `on_transmit_complete` turns a transmit in flight into a signal (R126, R130). -/
theorem completeTx_counts {done : Option Nat} {s t : State} (h : SignalsOk s)
    (hb : linkBehaves s (.cbTx done) = true) (hst : completeTx done s = .next t) :
    t.rxCount = s.rxCount ∧ t.txCount = s.txCount := by
  obtain _ | k := done
  · cases hb
  obtain ⟨x, hx⟩ := Option.isSome_iff_exists.1 hb
  simp only [completeTx, hx] at hst
  split at hst
  · cases hst
    have hle := h.counts_le.2
    have hlen := List.length_eraseIdx_add_one (List.getElem?_eq_some_iff.1 hx).1
    simp only [State.txCount] at hle
    refine ⟨rfl, ?_⟩
    simp only [State.txCount, signalTx_regs, signalTx_link, satSucc_toNat_of_lt (v := s.regs.txsig) (by omega)]
    omega
  · cases hst

/-- The other agents move a transfer from in flight to signalled, or leave both counts. -/
theorem agentStep_counts {e : Event} {s t : State} (h : SignalsOk s) (hb : linkBehaves s e = true)
    (hz : noHazard s e = true) (hst : agentStep e s = .next t) : t.rxCount = s.rxCount ∧ t.txCount = s.txCount := by
  cases e with
  | ctrl a => cases hst; exact ⟨rfl, rfl⟩
  | hostWrite addr w v =>
    simp only [agentStep] at hst
    split at hst <;> cases hst
    rename_i i _
    rcases regWrite_cases i v s with h | ⟨-, -, h⟩ | ⟨-, -, h⟩ | ⟨-, -, h⟩ | ⟨-, -, h⟩ <;> rw [h] <;>
      exact ⟨rfl, rfl⟩
  | hostRead addr w =>
    simp only [agentStep] at hst
    split at hst <;> cases hst
    exact ⟨rfl, rfl⟩
  | hbWrite addr d =>
    simp only [agentStep] at hst
    split at hst <;> cases hst
    exact ⟨rfl, rfl⟩
  | hbRead addr n =>
    simp only [agentStep] at hst
    split at hst <;> cases hst
    exact ⟨rfl, rfl⟩
  | tick => cases hst; exact counts_of_frame (by simp) (by simp) (by simp)
  | cbRx done => exact completeRx_counts h hb hst
  | cbTx done => exact completeTx_counts h hb hst
  | linkStore k i b => obtain rfl | ⟨_, _, _, _, _, rfl⟩ := storeEarly_cases hst <;> exact ⟨rfl, rfl⟩
  | linkFetch k i =>
    obtain rfl | ⟨_, _, _, _, rfl⟩ := fetchEarly_cases hst
    · exact ⟨rfl, rfl⟩
    · exact ⟨rfl, by simp [State.txCount]⟩
  | linkResidue i b => obtain rfl | ⟨_, _, _, _, rfl⟩ := residue_cases hst <;> exact ⟨rfl, rfl⟩
  | linkDropRx k => cases hb
  | linkDropTx k => cases hb
  | rst => cases hz

theorem agentStep_signals {e : Event} {s t : State} (h : SignalsOk s) (hb : linkBehaves s e = true)
    (hz : noHazard s e = true) (hst : agentStep e s = .next t) : SignalsOk t := by
  obtain ⟨hrx, htx⟩ := agentStep_counts h hb hz hst
  exact h.of_counts hrx htx (agentStep_awaits hz hst)

/-! ### The whole step -/

section TakeEvent

variable (s : State) (e e' : Event) (rest : List Event)

theorem takeEvent_awaits (st : Style) : awaits st (s.takeEvent e rest) = awaits st s :=
  awaits_congr (takeEvent_seq s e rest) (by rw [takeEvent_work]) st

theorem takeEvent_signals (h : SignalsOk s) : SignalsOk (s.takeEvent e rest) :=
  h.of_counts (by simp [State.rxCount]) (by simp [State.txCount]) (takeEvent_awaits s e rest)

theorem takeEvent_linkBehaves : linkBehaves (s.takeEvent e rest) e' = linkBehaves s e' := by
  simp only [linkBehaves, takeEvent_link]

theorem takeEvent_noHazard : noHazard (s.takeEvent e rest) e' = noHazard s e' := by
  simp only [noHazard, takeEvent_seq, takeEvent_work, takeEvent_regs]

end TakeEvent

/-- While the block is idle both signals are 0 (R21). -/
theorem SignalsOk.idle {s : State} (h : SignalsOk s) (hs : s.seq = []) : s.regs.rxsig = 0 ∧ s.regs.txsig = 0 := by
  obtain ⟨hrx, htx⟩ := h
  simp only [awaits, hs, Bool.toNat_false, Nat.add_eq_zero_iff] at hrx htx
  exact ⟨BitVec.eq_of_toNat_eq hrx.1, BitVec.eq_of_toNat_eq htx.1⟩

/-- Settles O55: CTRL's labelled step and every well-behaved agent's step keep the counts. -/
theorem signalsStayClean : Obligations.SignalsStayClean := by
  intro s t e rest hc h he hb hz hst
  suffices ht : SignalsOk t from ⟨ht, ht.idle⟩
  rcases step_micro hc hst with rfl | ⟨_, rest', -, -, rfl⟩ | ⟨a, rest', he', -, rfl⟩ | ⟨e', rest', he', -, ha⟩
  · exact h
  · exact takeEvent_signals _ _ _ h
  · obtain ⟨rfl, rfl⟩ : e = .ctrl a ∧ rest = rest' := by simpa [he] using he'
    exact micro_signals (takeEvent_control hc _ _) (takeEvent_signals _ _ _ h) (by rwa [takeEvent_noHazard])
  · obtain ⟨rfl, rfl⟩ : e = e' ∧ rest = rest' := by simpa [he] using he'
    exact agentStep_signals (takeEvent_signals _ _ _ h) (by rwa [takeEvent_linkBehaves]) (by rwa [takeEvent_noHazard]) ha

end Sys2Proof.Machine
end

section
/-! The result latches feed nothing (spec/10_state.md rules R10, R20): every operation commutes with forgetting them. -/

namespace Sys2Proof.Machine

@[simp] theorem forgetResults_cfg (s : State) : s.forgetResults.cfg = s.cfg := rfl
@[simp] theorem forgetResults_seq (s : State) : s.forgetResults.seq = s.seq := rfl
@[simp] theorem forgetResults_work (s : State) : s.forgetResults.work = s.work := rfl
@[simp] theorem forgetResults_hb (s : State) : s.forgetResults.hb = s.hb := rfl
@[simp] theorem forgetResults_link (s : State) : s.forgetResults.link = s.link := rfl
@[simp] theorem forgetResults_events (s : State) : s.forgetResults.io.events = s.io.events := rfl
@[simp] theorem forgetResults_ans (s : State) : s.forgetResults.io.ans = s.io.ans := rfl

/-- `f` reads no result latch. -/
def Blind (f : State → State) : Prop := ∀ s, (f s.forgetResults).forgetResults = (f s).forgetResults

/-- The step `f` reads no result latch. -/
def BlindStep (f : State → Out) : Prop :=
  ∀ s, mapNext State.forgetResults (f s.forgetResults) = mapNext State.forgetResults (f s)

theorem Blind.comp {f g : State → State} (hf : Blind f) (hg : Blind g) : Blind (fun s => f (g s)) := fun s => by
  rw [← hf (g s.forgetResults), hg, hf]

theorem Blind.next {f : State → State} (hf : Blind f) : BlindStep (fun s => .next (f s)) := fun s =>
  congrArg Host.Outcome.next (hf s)

/-- The two branches of a choice that reads no result latch. -/
theorem forgetResults_ite {c : Prop} [Decidable c] {a a' b b' : State} (ha : a.forgetResults = a'.forgetResults)
    (hb : b.forgetResults = b'.forgetResults) :
    (if c then a else b).forgetResults = (if c then a' else b').forgetResults := by
  split
  exacts [ha, hb]

/-- The same for the branches of a step. -/
theorem mapNext_ite {f : State → State} {c : Prop} [Decidable c] {a a' b b' : Out} (ha : mapNext f a = mapNext f a')
    (hb : mapNext f b = mapNext f b') : mapNext f (if c then a else b) = mapNext f (if c then a' else b') := by
  split
  exacts [ha, hb]

/-! ### The shared operations -/

theorem returnTo_blind (up : List Label) : Blind (returnTo up) := by
  induction up with
  | nil => exact fun _ => rfl
  | cons l up ih =>
    intro s
    cases l
    case wren2 => exact ih s
    case in7 | in13 => exact forgetResults_ite rfl rfl
    all_goals rfl

theorem startChecked_blind (g : Bool) (l : Label) : Blind (startChecked g l) := fun _ =>
  forgetResults_ite rfl (forgetResults_ite rfl rfl)

theorem initReset_blind : Blind initReset := by
  intro s
  simp only [initReset, forgetResults_ans]
  split <;> rfl

theorem pollTest_blind (up : List Label) : Blind (pollTest up) := fun s =>
  forgetResults_ite (returnTo_blind up s) (forgetResults_ite rfl rfl)

theorem latchStatus_blind : Blind latchStatus := fun _ => rfl

theorem issueSend_blind (k : Kind) (a n : Word) (up : List Label) : Blind (issueSend k a n up) := by
  intro s
  simp only [issueSend, forgetResults_ans]
  split
  · rfl
  · exact forgetResults_ite (returnTo_blind up (record _ { s with work.cmd := encodeCmd s.cfg k a n })) rfl

theorem issueRxb_blind (up : List Label) : Blind (issueRxb up) := by
  intro s
  simp only [issueRxb, forgetResults_ans]
  split
  · rfl
  · exact returnTo_blind up (record _ { s with work.regbuf := _ })

theorem issueTxb_blind (up : List Label) : Blind (issueTxb up) := by
  intro s
  simp only [issueTxb, forgetResults_ans]
  split
  · rfl
  · exact returnTo_blind up (record _ s)

theorem issueRxa_blind (up : List Label) : Blind (issueRxa up) := by
  intro s
  simp only [issueRxa, forgetResults_ans]
  split <;> rfl

theorem issueTxa_blind (up : List Label) : Blind (issueTxa up) := by
  intro s
  simp only [issueTxa, forgetResults_ans]
  split <;> rfl

theorem waitRx_blind (up : List Label) : Blind (waitRx up) := fun s =>
  forgetResults_ite (returnTo_blind up { s with regs.rxsig := s.regs.rxsig - 1, work.waited := .ok })
    (forgetResults_ite (returnTo_blind up { s with work.waited := .timeout }) rfl)

theorem waitTx_blind (up : List Label) : Blind (waitTx up) := fun s =>
  forgetResults_ite (returnTo_blind up { s with regs.txsig := s.regs.txsig - 1, work.waited := .ok })
    (forgetResults_ite (returnTo_blind up { s with work.waited := .timeout }) rfl)

theorem issueEnd_blind (up : List Label) : Blind (issueEnd up) := fun s =>
  forgetResults_ite rfl (returnTo_blind up s)

/-! ### The meanings: a case per label -/

theorem issueData_blind (k : Kind) (up : List Label) : BlindStep (issueData k up) := by
  intro s
  unfold issueData
  split
  exacts [(issueRxb_blind up).next s, (issueTxb_blind up).next s, (issueRxa_blind up).next s,
    (issueTxa_blind up).next s, rfl]

theorem waitSignal_blind (k : Kind) (up : List Label) : BlindStep (waitSignal k up) := by
  intro s
  unfold waitSignal
  split
  exacts [(waitRx_blind up).next s, (waitTx_blind up).next s, rfl]

theorem issueRelease_blind (k : Kind) (up : List Label) : BlindStep (issueRelease k up) := by
  intro s
  unfold issueRelease
  split
  exacts [(issueEnd_blind up).next { s with regs.rxh := false }, (issueEnd_blind up).next { s with regs.txh := false },
    rfl]

theorem issueStep_blind (k : Kind) (a n : Word) : BlindStep (issueStep k a n) := by
  intro s
  simp only [issueStep, forgetResults_seq]
  split
  exacts [(issueSend_blind k a n _).next s, issueData_blind k _ s, rfl, issueRelease_blind k _ s, rfl,
    waitSignal_blind k _ s, rfl]

theorem pollStep_blind : BlindStep pollStep := by
  intro s
  simp only [pollStep, forgetResults_seq, forgetResults_cfg]
  split
  · split <;> rfl
  · rfl
  · exact (pollTest_blind _).next s
  · rfl

theorem pollWrenStep_blind : BlindStep pollWrenStep := by
  intro s
  simp only [pollWrenStep, forgetResults_seq]
  split
  exacts [rfl, rfl, pollStep_blind s]

theorem getStatusStep_blind : BlindStep getStatusStep := by
  intro s
  simp only [getStatusStep, forgetResults_seq]
  split
  exacts [rfl, rfl, ((returnTo_blind _).comp latchStatus_blind).next s, rfl]

theorem execInit_blind : BlindStep execInit := by
  intro s
  simp only [execInit, forgetResults_seq]
  split
  case h_2 => exact initReset_blind.next s
  case h_16 => exact pollWrenStep_blind s
  all_goals rfl

theorem execGetInfo_blind : BlindStep execGetInfo := by
  intro s
  simp only [execGetInfo, forgetResults_seq]
  split <;> rfl

theorem execRead_blind : BlindStep execRead := by
  intro s
  simp only [execRead, forgetResults_seq]
  split
  case h_1 => exact (startChecked_blind _ _).next s
  case h_2 => exact congrArg Host.Outcome.next (forgetResults_ite rfl rfl)
  all_goals rfl

theorem execWrite_blind : BlindStep execWrite := by
  intro s
  simp only [execWrite, forgetResults_seq]
  split
  case h_1 => exact (startChecked_blind _ _).next s
  case h_2 | h_6 => exact congrArg Host.Outcome.next (forgetResults_ite rfl rfl)
  case h_8 => exact pollWrenStep_blind s
  all_goals rfl

theorem execEraseBlock_blind : BlindStep execEraseBlock := by
  intro s
  simp only [execEraseBlock, forgetResults_seq]
  split
  case h_1 => exact (startChecked_blind _ _).next s
  case h_6 => exact pollWrenStep_blind s
  all_goals rfl

theorem execEraseChip_blind : BlindStep execEraseChip := by
  intro s
  simp only [execEraseChip, forgetResults_seq]
  split
  case h_1 => exact (startChecked_blind _ _).next s
  case h_6 => exact pollWrenStep_blind s
  all_goals rfl

theorem execGetStatus_blind : BlindStep execGetStatus := by
  intro s
  simp only [execGetStatus, forgetResults_seq]
  split
  exacts [(startChecked_blind _ _).next s, rfl, rfl, getStatusStep_blind s]

theorem execSuspendErase_blind : BlindStep execSuspendErase := by
  intro s
  simp only [execSuspendErase, forgetResults_seq]
  split
  exacts [(startChecked_blind _ _).next s, rfl, congrArg Host.Outcome.next (forgetResults_ite rfl rfl),
    getStatusStep_blind s]

theorem execResumeErase_blind : BlindStep execResumeErase := by
  intro s
  simp only [execResumeErase, forgetResults_seq]
  split
  exacts [(startChecked_blind _ _).next s, rfl, congrArg Host.Outcome.next (forgetResults_ite rfl rfl),
    getStatusStep_blind s]

theorem execEnterLowPower_blind : BlindStep execEnterLowPower := by
  intro s
  simp only [execEnterLowPower, forgetResults_seq]
  split
  exacts [(startChecked_blind _ _).next s, rfl, rfl, rfl]

theorem execLeaveLowPower_blind : BlindStep execLeaveLowPower := by
  intro s
  simp only [execLeaveLowPower, forgetResults_seq]
  split
  exacts [(startChecked_blind _ _).next s, rfl, rfl, rfl]

theorem badOpStep_blind : BlindStep badOpStep := by
  intro s
  simp only [badOpStep, forgetResults_seq]
  split <;> rfl

theorem exec_blind (i : Instr) : BlindStep (exec i) := by
  cases i with
  | init => exact execInit_blind
  | getInfo => exact execGetInfo_blind
  | read => exact execRead_blind
  | write => exact execWrite_blind
  | eraseBlock => exact execEraseBlock_blind
  | eraseChip => exact execEraseChip_blind
  | getStatus => exact execGetStatus_blind
  | suspendErase => exact execSuspendErase_blind
  | resumeErase => exact execResumeErase_blind
  | enterLowPower => exact execEnterLowPower_blind
  | leaveLowPower => exact execLeaveLowPower_blind
  | reserved0 | reservedC | reservedD | reservedE | reservedF => exact badOpStep_blind
  | _ => exact issueStep_blind _ _ _

/-! ### The agents and the whole step -/

theorem regWrite_blind (i : Nat) (v : Word) : Blind (regWrite i v) := by
  intro s
  refine forgetResults_ite rfl ?_
  split <;> rfl

theorem completeRx_blind (done : Option (Nat × List Byte)) : BlindStep (completeRx done) := by
  intro s
  simp only [completeRx, forgetResults_link, forgetResults_cfg, forgetResults_hb]
  split
  · rfl
  · split
    · rfl
    · split
      · rfl
      · split <;> rfl

theorem completeTx_blind (done : Option Nat) : BlindStep (completeTx done) := by
  intro s
  simp only [completeTx, forgetResults_link, forgetResults_cfg, forgetResults_hb]
  split
  · rfl
  · split
    · rfl
    · exact mapNext_ite rfl rfl

theorem storeEarly_blind (k i : Nat) (b : Byte) : BlindStep (storeEarly k i b) := by
  intro s
  simp only [storeEarly, forgetResults_link, forgetResults_cfg, forgetResults_hb]
  split
  · rfl
  · split
    · split <;> rfl
    · rfl

theorem fetchEarly_blind (k i : Nat) : BlindStep (fetchEarly k i) := by
  intro s
  simp only [fetchEarly, forgetResults_link, forgetResults_cfg, forgetResults_hb]
  split
  · rfl
  · exact mapNext_ite (mapNext_ite rfl rfl) rfl

theorem readFailed_forgetResults (s : State) : readFailed s.forgetResults = readFailed s := rfl

theorem residue_blind (i : Nat) (b : Byte) : BlindStep (residue i b) := by
  intro s
  simp only [residue, readFailed_forgetResults, forgetResults_work, forgetResults_cfg, forgetResults_hb]
  refine mapNext_ite ?_ rfl
  split <;> rfl

/-- Of the other agents only a host read looks at the result latches, and what it shows is forgotten with them. -/
theorem agentStep_blind (e : Event) : BlindStep (agentStep e) := by
  intro s
  cases e with
  | hostWrite addr w v =>
    simp only [agentStep, forgetResults_cfg]
    split
    exacts [(regWrite_blind _ _).next s, rfl]
  | hostRead addr w => simp only [agentStep, forgetResults_cfg]; split <;> rfl
  | hbWrite addr d => simp only [agentStep, forgetResults_cfg, forgetResults_hb]; split <;> rfl
  | hbRead addr n => simp only [agentStep, forgetResults_cfg, forgetResults_hb]; split <;> rfl
  | tick => exact congrArg Host.Outcome.next (forgetResults_ite rfl rfl)
  | cbRx done => exact completeRx_blind done s
  | cbTx done => exact completeTx_blind done s
  | linkStore k i b => exact storeEarly_blind k i b s
  | linkFetch k i => exact fetchEarly_blind k i s
  | linkResidue i b => exact residue_blind i b s
  | ctrl _ | linkDropRx _ | linkDropTx _ | rst => rfl

theorem fetch_forgetResults (s : State) : fetch s.forgetResults = fetch s := rfl

theorem ctrlStep_blind : BlindStep ctrlStep := by
  intro s
  simp only [ctrlStep, fetch_forgetResults]
  split
  exacts [exec_blind _ s, rfl]

theorem takeEvent_forgetResults (s : State) (e : Event) (rest : List Event) :
    s.forgetResults.takeEvent e rest = (s.takeEvent e rest).forgetResults := by
  cases e <;> rfl

/-- Settles O57: the event taken off the schedule is the same, and the step of its agent reads no result latch. -/
theorem resultLatchesFeedNothing : Obligations.ResultLatchesFeedNothing := by
  intro s
  simp only [step, forgetResults_cfg, forgetResults_events, takeEvent_forgetResults]
  split
  · split
    exacts [rfl, ctrlStep_blind _, agentStep_blind _ _]
  · rfl

end Sys2Proof.Machine
end

section
/-! What one step of the schedule is (spec/00_scope.md rule R5): CTRL's instruction, a host write, and the reset state
(spec/10_state.md rule R35). -/

namespace Sys2Proof.Machine

/-! ### CTRL's turn -/

theorem step_ctrl {s : State} {ans : Answer} {rest : List Event} (hv : s.cfg.valid = true)
    (he : s.io.events = .ctrl ans :: rest) : step s = ctrlStep (s.takeEvent (.ctrl ans) rest) := by
  simp only [step, hv, he, if_true]

theorem fetch_idle {s : State} (hs : s.seq = []) : fetch s = none := by
  simp only [fetch, hs]

theorem fetch_busy {s : State} {l : Label} {up : List Label} (hs : s.seq = l :: up) :
    fetch s = some (if l.isTransport then s.work.arg.kind.instr s.work.arg.a s.work.arg.n else decodeOp s.work.op) := by
  simp only [fetch, hs]
  split <;> rfl

/-- The latched code is bits 3:0 of any word it was latched from (R61). -/
theorem opField_setWidth (op : BitVec 4) : opField (op.setWidth 32) = op := by
  revert op
  decide

/-- Settles O10: with an event of CTRL the step is CTRL's, and `fetch` names the instruction by the innermost label. -/
theorem stepRunsTheFetchedInstruction : Obligations.StepRunsTheFetchedInstruction := by
  intro s ans rest l up i hv he hs hi
  have hfetch : fetch (s.takeEvent (.ctrl ans) rest) = some i := by
    rw [fetch_busy (by simpa using hs)]
    split at hi
    next hl => simp [hl, hi]
    next hl =>
      simp only [decode, opField_setWidth, Except.ok.injEq] at hi
      simp [hl, hi]
  rw [step_ctrl hv he, ctrlStep, hfetch, takeEvent_ctrl]

/-- Settles O11: the three cases in which a step finds no instruction. -/
theorem stepWithoutAnInstruction : Obligations.StepWithoutAnInstruction := by
  refine fun s => ⟨fun hv => ?_, fun hv he => ?_, fun ans rest hv he hs => ?_⟩
  · simp [step, hv]
  · simp [step, hv, he]
  · rw [step_ctrl hv he, ctrlStep, fetch_idle (by simpa using hs), takeEvent_ctrl]

/-! ### A host write -/

/-- An aligned word access at offset `4 i` names register `i` (R12, R45). -/
theorem regIndex_word (c : Config) {i : Nat} (hi : i < 16) : regIndex c (c.regBase + 4 * i) .word = some i := by
  have hoff : c.regBase + 4 * i - c.regBase = 4 * i := by omega
  rw [regIndex, hoff, if_pos ⟨rfl, by omega, by omega, by omega⟩]
  exact congrArg some (by omega)

theorem step_agent {s : State} {e : Event} {rest : List Event} (hv : s.cfg.valid = true) (he : s.io.events = e :: rest)
    (hne : ∀ a, e ≠ .ctrl a) : step s = agentStep e (s.afterEvents rest) := by
  rw [← takeEvent_agent hne]
  simp only [step, hv, he, if_true]

theorem step_hostWrite {s : State} {i : Nat} {v : Word} {rest : List Event} (hv : s.cfg.valid = true)
    (he : s.io.events = .hostWrite (s.cfg.regBase + 4 * i) .word v :: rest) (hi : i < 16) :
    step s = .next (regWrite i v (s.afterEvents rest)) := by
  rw [step_agent hv he nofun]
  simp only [agentStep, afterEvents_cfg, regIndex_word s.cfg hi]

/-- While idle the operand registers take the value written and the read-only registers ignore it (R12, R14 to R16). -/
theorem regWrite_idle {s : State} (hs : s.seq = []) (v : Word) :
    regWrite 1 v s = { s with regs.addr := v } ∧ regWrite 2 v s = { s with regs.len := v }
      ∧ regWrite 3 v s = { s with regs.bufptr := v } ∧ ∀ i, 4 ≤ i → regWrite i v s = s := by
  have hb : s.busy = false := (busy_eq_false_iff s).2 hs
  refine ⟨by simp [regWrite, hb], by simp [regWrite, hb], by simp [regWrite, hb], fun i hi => ?_⟩
  rcases regWrite_cases i v s with h | ⟨-, rfl, -⟩ | ⟨-, rfl, -⟩ | ⟨-, rfl, -⟩ | ⟨-, rfl, -⟩
  · exact h
  all_goals omega

/-- Settles O14: the host's write reaches `regWrite` of an idle block. -/
theorem operandAndReadOnlyWrites : Obligations.OperandAndReadOnlyWrites := by
  intro s i v rest hv hs he
  obtain ⟨haddr, hlen, hbuf, hro⟩ := regWrite_idle (s := s.afterEvents rest) hs v
  refine ⟨?_, ?_, ?_, fun h4 h16 => ?_⟩
  · rintro rfl
    rw [step_hostWrite hv he (by omega), haddr]
    rfl
  · rintro rfl
    rw [step_hostWrite hv he (by omega), hlen]
    rfl
  · rintro rfl
    rw [step_hostWrite hv he (by omega), hbuf]
    rfl
  · rw [step_hostWrite hv he h16, hro i h4]

/-! ### The reset state -/

/-- Settles O24, register by register. -/
theorem resetStateValues : Obligations.ResetStateValues where
  registers := by decide
  idle := rfl
  latches := ⟨rfl, rfl, rfl, rfl⟩
  splitter := ⟨rfl, rfl, rfl⟩
  poller := ⟨rfl, rfl, rfl⟩
  command := rfl
  regbuf := rfl
  temps := ⟨rfl, rfl, rfl, rfl⟩
  status := ⟨rfl, rfl⟩

/-- With no operation begun, the write loop's invariant asks nothing. -/
theorem writeOk_of_idle {s : State} (hs : s.seq = []) : WriteOk s := by
  simp [WriteOk, hs, issueCaller]

/-- An idle block at which no operation has completed satisfies what is said of results and of `INITED`. -/
theorem resultOk_initedOk_of_not_done {s : State} (hs : s.seq = []) (hd : s.regs.done = false) :
    ResultOk s ∧ InitedOk s := by
  simp [ResultOk, InitedOk, hs, hd]

/-- Settles O56: at reset the block is idle, nothing has been sent and no transfer is in flight. -/
theorem invariantsHoldAtReset : Obligations.InvariantsHoldAtReset := by
  have hs : State.reset.seq = [] := rfl
  obtain ⟨hresult, hinited⟩ := resultOk_initedOk_of_not_done hs rfl
  have hhb : HbOk State.reset := ⟨rfl, fun x hx => by cases hx⟩
  have hdone : DoneOk State.reset := fun h => absurd hs h
  have hprog : ProgramsInsidePages State.reset := fun cmd ok h => by cases h
  exact ⟨controlOk_of_idle hs, ⟨rfl, rfl⟩, hhb, .inl hs, hdone, hresult, hinited, writeOk_of_idle hs, hprog, trivial, rfl,
    ⟨rfl, rfl⟩⟩

end Sys2Proof.Machine
end

section
/-! Access to the register file and to the host buffer space (spec/20_memory.md rules R40 to R46): what a host access
shows and stores, and what the LINK stores and takes for the transfers it has accepted. -/

namespace Sys2Proof.Machine

/-! ### The register file (R45, R46) -/

/-- An access that is no aligned word access inside the window names no register (R45 a). -/
theorem regIndex_bad {c : Config} {addr : Nat} {w : Width}
    (h : w ≠ .word ∨ addr < c.regBase ∨ (addr - c.regBase) % 4 ≠ 0 ∨ 0x3C < addr - c.regBase) :
    regIndex c addr w = none := by
  refine if_neg ?_
  rintro ⟨hw, hbase, halign, hwindow⟩
  rcases h with h | h | h | h
  · exact h hw
  all_goals omega

/-- Settles O16: the access names no register, for a write and for a read. -/
theorem badRegisterAccessRefused : Obligations.BadRegisterAccessRefused := by
  intro s addr w v rest hv hbad he
  rcases he with he | he <;> rw [step_agent hv he nofun] <;> simp only [agentStep, afterEvents_cfg, regIndex_bad hbad]

/-- The bits of `STAT` as a sum of powers of 2 (R17). -/
theorem statWord_eq_sum (s : State) :
    s.statWord = BitVec.ofNat 32 ((if s.seq = [] then 0 else 1) + 2 * s.regs.done.toNat + 4 * s.regs.inited.toNat
      + 16 * s.regs.rxh.toNat + 32 * s.regs.txh.toNat) := by
  have bits (busy done inited rxh txh : Bool) :
      (0#26 ++ BitVec.ofBool txh ++ BitVec.ofBool rxh ++ 0#1 ++ BitVec.ofBool inited ++ BitVec.ofBool done
          ++ BitVec.ofBool busy : BitVec 32)
        = BitVec.ofNat 32 (busy.toNat + 2 * done.toNat + 4 * inited.toNat + 16 * rxh.toNat + 32 * txh.toNat) := by
    revert busy done inited rxh txh
    decide
  have hbusy : s.busy.toNat = if s.seq = [] then 0 else 1 := by
    cases hs : s.seq <;> simp [State.busy, hs]
  rw [State.statWord, bits, hbusy]

/-- The code that `STATUS_OUT` shows for each class (R20). -/
theorem statusOut_code_eq (c : ChipState) :
    (c.code.setWidth 32 : Word)
      = if c = .ready then 0 else if c = .busy then 1 else if c = .suspended then 2 else 3 := by
  cases c <;> rfl

/-- The sixteen registers in the order of their offsets (R12). -/
theorem map_regRead_range (s : State) :
    (List.range 16).map (regRead s)
      = [s.regs.opcmd.setWidth 32, s.regs.addr, s.regs.len, s.regs.bufptr, s.statWord, s.regs.result, s.regs.progress,
          s.regs.statusOut.code.setWidth 32, s.regs.rxsig, s.regs.txsig, s.regs.info0, s.regs.info1, s.regs.info2,
          s.regs.info3, s.regs.info4, s.regs.info5] := rfl

theorem regRead_afterEvents (s : State) (rest : List Event) (i : Nat) :
    regRead (s.afterEvents rest) i = regRead s i := rfl

theorem step_hostRead {s : State} {i : Nat} {rest : List Event} (hv : s.cfg.valid = true)
    (he : s.io.events = .hostRead (s.cfg.regBase + 4 * i) .word :: rest) (hi : i < 16) :
    step s = .next { s with io := { s.io with events := rest, busData := regRead s i } } := by
  rw [step_agent hv he nofun]
  simp only [agentStep, afterEvents_cfg, regIndex_word s.cfg hi, regRead_afterEvents]
  rfl

/-- Settles O15: the list of the statement is the list of the sixteen register values. -/
theorem registerReadsHaveNoSideEffect : Obligations.RegisterReadsHaveNoSideEffect := by
  intro s i v rest hv he hval
  rw [← statWord_eq_sum, ← statusOut_code_eq, ← map_regRead_range, List.getElem?_map, Option.map_eq_some_iff] at hval
  obtain ⟨j, hj, rfl⟩ := hval
  obtain ⟨hi, rfl⟩ := List.getElem?_eq_some_iff.1 hj
  rw [step_hostRead hv he (by simpa using hi), List.getElem_range]

/-! ### A store in `HB` (R42, R239) -/

/-- `MemWrite` is refused exactly beyond `HB_SIZE` (R42). -/
theorem memWrite_eq_none {c : Config} {m : Memory} {a : Nat} {v : List Byte} :
    memWrite c m a v = none ↔ c.hbSize < a + v.length := by
  simp only [memWrite, ite_eq_right_iff, reduceCtorEq, imp_false, Nat.not_le]

/-- `MemRead` is refused exactly beyond `HB_SIZE` (R41). -/
theorem memRead_eq_none {c : Config} {m : Memory} {a n : Nat} : memRead c m a n = none ↔ c.hbSize < a + n := by
  simp only [memRead, ite_eq_right_iff, reduceCtorEq, imp_false, Nat.not_le]

/-- `MemWrite` inside the space: the canonical form stays, and every byte is the list's or the old one (R42). -/
theorem memWrite_inside {c : Config} {m : Memory} {a : Nat} {v : List Byte} (hw : m.wf = true)
    (ha : a + v.length ≤ c.hbSize) :
    ∃ m', memWrite c m a v = some m' ∧ m'.wf = true
      ∧ ∀ x, hbByte m' x = if a ≤ x ∧ x < a + v.length then v.getD (x - a) 0 else hbByte m x :=
  ⟨hbSetAll m a v, memWrite_eq_some.2 ⟨ha, rfl⟩, hbSetAll_wf hw a v, hbByte_hbSetAll_range hw a v⟩

/-- What the HOST's store, an early store of the LINK and the residue of a READ have in common: `MemWrite`, refused
outside the space. -/
def hbStore (a : Nat) (v : List Byte) (s : State) : Out :=
  match memWrite s.cfg s.hb a v with
  | none => .refused .outsideHb
  | some m => .next { s with hb := m }

theorem hbStore_of_some {s : State} {a : Nat} {v : List Byte} {m : Memory} (h : memWrite s.cfg s.hb a v = some m) :
    hbStore a v s = .next { s with hb := m } := by
  simp only [hbStore, h]

theorem hbStore_outside {s : State} {a : Nat} {v : List Byte} (h : s.cfg.hbSize < a + v.length) :
    hbStore a v s = .refused .outsideHb := by
  simp only [hbStore, memWrite_eq_none.2 h]

/-- One byte is stored inside the space and refused outside it. -/
theorem hbStore_byte {s : State} (hw : s.hb.wf = true) (a : Nat) (b : Byte) :
    (a < s.cfg.hbSize →
      ∃ m, hbStore a [b] s = .next { s with hb := m } ∧ m.wf = true
        ∧ ∀ x, hbByte m x = if x = a then b else hbByte s.hb x)
    ∧ (s.cfg.hbSize ≤ a → hbStore a [b] s = .refused .outsideHb) := by
  refine ⟨fun ha => ?_, fun ha => hbStore_outside (Nat.lt_succ_of_le ha)⟩
  obtain ⟨m, hm, hwf, hread⟩ := memWrite_one b hw ha
  exact ⟨m, hbStore_of_some hm, hwf, hread⟩

theorem agentStep_hbWrite (a : Nat) (v : List Byte) (s : State) : agentStep (.hbWrite a v) s = hbStore a v s := by
  simp only [agentStep, hbStore]
  cases memWrite s.cfg s.hb a v <;> rfl

/-- The LINK's early store of a byte of the buffer (R43). -/
theorem storeEarly_eq_hbStore {s : State} {k i : Nat} {b : Byte} {t : RxXfer} (ht : s.link.rx[k]? = some t)
    (hi : i < t.len.toNat) : storeEarly k i b s = hbStore (t.ptr.toNat + i) [b] s := by
  simp only [storeEarly, ht]
  exact if_pos hi

/-- With no such transfer, or no such byte in its buffer, an early store does nothing (log 8). -/
theorem storeEarly_eq_self {s : State} {k i : Nat} {b : Byte} (h : ∀ t, s.link.rx[k]? = some t → t.len.toNat ≤ i) :
    storeEarly k i b s = .next s := by
  unfold storeEarly
  split
  · rfl
  next t ht => exact if_neg (Nat.not_lt.2 (h t ht))

/-- After a READ that ended with ERR_LINK the LINK may store any byte of its buffer (R170, U8). -/
theorem residue_eq_hbStore {s : State} {i : Nat} {b : Byte} (hf : readFailed s = true) (hi : i < s.work.arg.n.toNat) :
    residue i b s = hbStore (s.work.arg.ptr.toNat + i) [b] s :=
  if_pos ⟨hf, hi⟩

/-- With no such READ, or no such byte in its buffer, there is no residue (log 23). -/
theorem residue_eq_self {s : State} {i : Nat} {b : Byte} (h : readFailed s = false ∨ s.work.arg.n.toNat ≤ i) :
    residue i b s = .next s := by
  refine if_neg ?_
  rintro ⟨hf, hi⟩
  rcases h with h | h
  · exact Bool.noConfusion (h.symm.trans hf)
  · exact Nat.not_lt.2 h hi

/-! ### The HOST's accesses to `HB` (R41, R42) -/

/-- Settles O17: the store is `MemWrite`. -/
theorem bufferWrites : Obligations.BufferWrites := by
  intro s a d rest hv hw he
  rw [step_agent hv he nofun, agentStep_hbWrite]
  refine ⟨fun ha => ?_, hbStore_outside (s := s.afterEvents rest)⟩
  obtain ⟨m, hm, hwf, hread⟩ := memWrite_inside hw ha
  exact ⟨m, hbStore_of_some hm, hwf, hread⟩

/-- Settles O18: the load is `MemRead`. -/
theorem bufferReads : Obligations.BufferReads := by
  intro s a n rest hv he
  rw [step_agent hv he nofun]
  refine ⟨fun ha => ?_, fun ha => ?_⟩
  · simp only [agentStep, afterEvents_cfg, afterEvents_hb, memRead_eq_some.2 ⟨ha, rfl⟩]
    rfl
  · simp only [agentStep, afterEvents_cfg, afterEvents_hb, memRead_eq_none.2 ha]

/-! ### The LINK's receives (R43, R130) -/

/-- `on_receive_complete` of a transfer in flight, with data of its length: `MemWrite`, then the signal. -/
theorem completeRx_inside {s : State} {k : Nat} {d : List Byte} {t : RxXfer} {m : Memory}
    (ht : s.link.rx[k]? = some t) (hd : d.length = t.len.toNat) (hm : memWrite s.cfg s.hb t.ptr.toNat d = some m) :
    completeRx (some (k, d)) s
      = .next ({ s with hb := m, link.rx := s.link.rx.eraseIdx k } : State).rxRaised := by
  simp only [completeRx, ht, hd, ne_eq, not_true_eq_false, if_false, hm, signalRx_eq_rxRaised]

/-- `on_receive_complete` of a transfer that reaches beyond `HB_SIZE` (R239, log 9). -/
theorem completeRx_outside {s : State} {k : Nat} {d : List Byte} {t : RxXfer} (ht : s.link.rx[k]? = some t)
    (hd : d.length = t.len.toNat) (hout : s.cfg.hbSize < t.ptr.toNat + d.length) :
    completeRx (some (k, d)) s = .refused .outsideHb := by
  simp only [completeRx, ht, hd, ne_eq, not_true_eq_false, if_false, memWrite_eq_none.2 hout]

/-- Settles O21, event by event. -/
theorem receiveCompletionStoresTheData : Obligations.ReceiveCompletionStoresTheData := by
  intro s rest hv hw
  refine ⟨fun k d t he ht hd => ?completion, fun k i b he => ?early, fun k he => ?drop, fun i b he => ?residue⟩
  case completion =>
    rw [step_agent hv he nofun]
    refine ⟨fun hin => ?_, completeRx_outside (s := s.afterEvents rest) ht hd⟩
    obtain ⟨m, hm, hwf, hread⟩ := memWrite_inside hw hin
    exact ⟨m, completeRx_inside (s := s.afterEvents rest) ht hd hm, hwf, hread⟩
  case early =>
    rw [step_agent hv he nofun]
    refine ⟨fun t ht hi => ?_, storeEarly_eq_self (s := s.afterEvents rest)⟩
    have hstore : agentStep (.linkStore k i b) (s.afterEvents rest)
        = hbStore (t.ptr.toNat + i) [b] (s.afterEvents rest) := storeEarly_eq_hbStore ht hi
    rw [hstore]
    exact hbStore_byte (s := s.afterEvents rest) hw _ b
  case drop =>
    rw [step_agent hv he nofun]
    rfl
  case residue =>
    rw [step_agent hv he nofun]
    refine ⟨fun hf hi => ?_, residue_eq_self (s := s.afterEvents rest)⟩
    have hstore : agentStep (.linkResidue i b) (s.afterEvents rest)
        = hbStore (s.work.arg.ptr.toNat + i) [b] (s.afterEvents rest) :=
      residue_eq_hbStore (s := s.afterEvents rest) hf hi
    rw [hstore]
    exact hbStore_byte (s := s.afterEvents rest) hw _ b

/-! ### The LINK's transmits (R43, R130) -/

/-- The last value taken of a byte is that of the first pair with its index. -/
theorem taken_lookup_eq_find? (l : List (Nat × Byte)) (i : Nat) :
    l.lookup i = (l.find? (fun x => x.1 == i)).map Prod.snd := by
  induction l with
  | nil => rfl
  | cons x l ih =>
    by_cases hx : x.1 = i
    · simp [List.lookup, hx]
    · simp [List.lookup, hx, beq_eq_false_iff_ne.2 (Ne.symm hx), ih]

/-- What a transmit sends: of each byte the value the LINK took last, or the present one (R43). -/
theorem txBytes_eq (t : TxXfer) (m : Memory) :
    t.bytes m = (List.range t.len.toNat).map (fun i =>
      match t.taken.find? (fun x => x.1 == i) with
      | some x => x.2
      | none => hbByte m (t.ptr.toNat + i)) := by
  refine List.map_congr_left fun i _ => ?_
  rw [taken_lookup_eq_find?]
  cases t.taken.find? (fun x => x.1 == i) <;> rfl

/-- `on_transmit_complete` of a transfer in flight: its bytes are sent, then the signal. -/
theorem completeTx_inside {s : State} {k : Nat} {t : TxXfer} (ht : s.link.tx[k]? = some t)
    (hin : t.ptr.toNat + t.len.toNat ≤ s.cfg.hbSize) :
    completeTx (some k) s
      = .next ({ s with
          link := { s.link with tx := s.link.tx.eraseIdx k, sent := t.bytes s.hb :: s.link.sent } } : State).txRaised := by
  simp only [completeTx, ht, if_pos hin, signalTx_eq_txRaised]

/-- `on_transmit_complete` of a transfer that reaches beyond `HB_SIZE` (R239, log 9). -/
theorem completeTx_outside {s : State} {k : Nat} {t : TxXfer} (ht : s.link.tx[k]? = some t)
    (hout : s.cfg.hbSize < t.ptr.toNat + t.len.toNat) : completeTx (some k) s = .refused .outsideHb := by
  simp only [completeTx, ht, if_neg (Nat.not_le.2 hout)]

/-- The LINK's early read of a byte of the buffer (R43). -/
theorem fetchEarly_inside {s : State} {k i : Nat} {t : TxXfer} (ht : s.link.tx[k]? = some t) (hi : i < t.len.toNat)
    (hin : t.ptr.toNat + i < s.cfg.hbSize) :
    fetchEarly k i s
      = .next { s with
          link.tx := s.link.tx.set k ⟨t.ptr, t.len, (i, hbByte s.hb (t.ptr.toNat + i)) :: t.taken⟩ } := by
  simp only [fetchEarly, ht, if_pos hi, if_pos hin]

/-- An early read beyond `HB_SIZE` (R239, log 9). -/
theorem fetchEarly_outside {s : State} {k i : Nat} {t : TxXfer} (ht : s.link.tx[k]? = some t) (hi : i < t.len.toNat)
    (hout : s.cfg.hbSize ≤ t.ptr.toNat + i) : fetchEarly k i s = .refused .outsideHb := by
  simp only [fetchEarly, ht, if_pos hi, if_neg (Nat.not_lt.2 hout)]

/-- With no such transfer, or no such byte in its buffer, an early read does nothing (log 8). -/
theorem fetchEarly_eq_self {s : State} {k i : Nat} (h : ∀ t, s.link.tx[k]? = some t → t.len.toNat ≤ i) :
    fetchEarly k i s = .next s := by
  unfold fetchEarly
  split
  · rfl
  next t ht => exact if_neg (Nat.not_lt.2 (h t ht))

/-- Settles O22, event by event. -/
theorem transmitCompletionSendsTheBuffer : Obligations.TransmitCompletionSendsTheBuffer := by
  intro s rest hv
  refine ⟨fun k t he ht => ?completion, fun k i he => ?early, fun k he => ?drop⟩
  case completion =>
    rw [step_agent hv he nofun]
    refine ⟨fun hin => ?_, completeTx_outside (s := s.afterEvents rest) ht⟩
    refine (completeTx_inside (s := s.afterEvents rest) ht hin).trans ?_
    rw [txBytes_eq]
    rfl
  case early =>
    rw [step_agent hv he nofun]
    exact ⟨fun t ht hi => ⟨fetchEarly_inside (s := s.afterEvents rest) ht hi,
      fetchEarly_outside (s := s.afterEvents rest) ht hi⟩, fetchEarly_eq_self (s := s.afterEvents rest)⟩
  case drop =>
    rw [step_agent hv he nofun]
    rfl

end Sys2Proof.Machine
end

section
/-! The host buffer space over a whole step (spec/20_memory.md rules R40, R42): CTRL never touches it, the other agents
change it by `MemWrite` alone, and no agent changes the configuration (spec/00_scope.md rule R6). -/

namespace Sys2Proof.Machine

/-! ### CTRL's step from any position

`exec_micro` needs a legal position to exclude the fault; where there is a next state, none is needed. -/

section Meanings

variable {s t : State}

theorem issueStep_next_eq_micro (h : issueStep s.work.arg.kind s.work.arg.a s.work.arg.n s = .next t) :
    t = micro s := by
  unfold issueStep at h
  split at h
  case h_2 up hs =>
    simp only [micro, hs, dataStep]
    unfold issueData at h
    split at h <;> cases h <;> simp only [*]
  case h_4 up hs =>
    simp only [micro, hs, releaseStep]
    unfold issueRelease at h
    split at h <;> cases h <;> simp only [*]
  case h_6 up hs =>
    simp only [micro, hs, waitStep]
    unfold waitSignal at h
    split at h <;> cases h <;> simp only [*]
  all_goals
    rename_i hs
    cases h <;> simp only [micro, hs]

theorem pollStep_next_eq_micro (h : pollStep s = .next t) : t = micro s := by
  unfold pollStep at h
  split at h
  case h_1 l up hs =>
    split at h
    next args hargs => cases h; simp only [micro, hs, hargs]
    next => cases h
  all_goals
    rename_i hs
    cases h <;> simp only [micro, hs]

theorem pollWrenStep_next_eq_micro (h : pollWrenStep s = .next t) : t = micro s := by
  unfold pollWrenStep at h
  split at h
  case h_3 => exact pollStep_next_eq_micro h
  all_goals
    rename_i hs
    cases h
    simp only [micro, hs]

theorem getStatusStep_next_eq_micro (h : getStatusStep s = .next t) : t = micro s := by
  unfold getStatusStep at h
  split at h
  all_goals
    rename_i hs
    cases h <;> simp only [micro, hs]

/-- A meaning of the latched operation that has a next state takes the labelled step of the innermost label. -/
theorem exec_op_next_eq_micro (h : exec (decodeOp s.work.op) s = .next t) : t = micro s := by
  have hlink := decodeOp_not_link s.work.op
  cases hop : decodeOp s.work.op <;> rw [hop] at h hlink
  case init | write | eraseBlock | eraseChip =>
    simp only [exec, execInit, execWrite, execEraseBlock, execEraseChip] at h
    split at h
    rotate_right
    · exact pollWrenStep_next_eq_micro h
    all_goals
      cases h
      simp only [micro, startStep, *]
  case getStatus | suspendErase | resumeErase =>
    simp only [exec, execGetStatus, execSuspendErase, execResumeErase] at h
    split at h
    rotate_right
    · exact getStatusStep_next_eq_micro h
    all_goals
      cases h
      simp only [micro, startStep, *]
  case getInfo | read | enterLowPower | leaveLowPower =>
    simp only [exec, execGetInfo, execRead, execEnterLowPower, execLeaveLowPower] at h
    split at h <;> cases h <;> simp only [micro, startStep, *]
  case reserved0 | reservedC | reservedD | reservedE | reservedF =>
    simp only [exec, execReserved0, execReservedC, execReservedD, execReservedE, execReservedF, badOpStep] at h
    split at h <;> cases h
    simp only [micro, startStep, *]
  all_goals cases hlink

/-- CTRL's step, where it has a next state, is the labelled step of the innermost label. -/
theorem ctrlStep_next_eq_micro (h : ctrlStep s = .next t) : t = micro s := by
  cases hs : s.seq with
  | nil =>
    rw [ctrlStep, fetch_idle hs] at h
    cases h
    simp only [micro, hs]
  | cons l up =>
    rw [ctrlStep, fetch_busy hs] at h
    by_cases hl : l.isTransport = true
    · simp only [hl, if_true, exec_link] at h
      exact issueStep_next_eq_micro h
    · simp only [hl] at h
      exact exec_op_next_eq_micro h

end Meanings

/-! ### CTRL leaves `HB` and the configuration -/

section Frame

variable (up : List Label) (s : State)

theorem startStep_space : (startStep s).cfg = s.cfg ∧ (startStep s).hb = s.hb := by
  rcases startStep_cases s with ⟨e, h⟩ | ⟨l, h, -⟩ <;> rw [h] <;> exact ⟨rfl, rfl⟩

theorem initReset_space : (initReset s).cfg = s.cfg ∧ (initReset s).hb = s.hb := by
  unfold initReset
  split <;> exact ⟨rfl, rfl⟩

theorem pollTest_space : (pollTest up s).cfg = s.cfg ∧ (pollTest up s).hb = s.hb := by
  unfold pollTest
  split
  · simp
  · split <;> exact ⟨rfl, rfl⟩

theorem writeFirst_space : (writeFirst s).cfg = s.cfg ∧ (writeFirst s).hb = s.hb := by
  unfold writeFirst
  split <;> exact ⟨rfl, rfl⟩

theorem writeAdvance_space : (writeAdvance s).cfg = s.cfg ∧ (writeAdvance s).hb = s.hb := by
  unfold writeAdvance
  dsimp only
  split <;> exact ⟨rfl, rfl⟩

theorem issueSend_space (k : Kind) (a n : Word) :
    (issueSend k a n up s).cfg = s.cfg ∧ (issueSend k a n up s).hb = s.hb := by
  unfold issueSend
  split
  · exact ⟨rfl, rfl⟩
  · split <;> simp

theorem dataStep_space : (dataStep up s).cfg = s.cfg ∧ (dataStep up s).hb = s.hb := by
  unfold dataStep
  split
  next => unfold issueRxb; split <;> simp
  next => unfold issueTxb; split <;> simp
  next => unfold issueRxa; split <;> exact ⟨rfl, rfl⟩
  next => unfold issueTxa; split <;> exact ⟨rfl, rfl⟩
  next => exact ⟨rfl, rfl⟩

theorem waitStep_space : (waitStep up s).cfg = s.cfg ∧ (waitStep up s).hb = s.hb := by
  unfold waitStep waitRx waitTx
  split
  · repeat' split
    all_goals simp
  · repeat' split
    all_goals simp
  · exact ⟨rfl, rfl⟩

theorem releaseStep_space : (releaseStep up s).cfg = s.cfg ∧ (releaseStep up s).hb = s.hb := by
  unfold releaseStep issueEnd
  split
  · split <;> simp
  · split <;> simp
  · exact ⟨rfl, rfl⟩

/-- CTRL's labelled step leaves the configuration and `HB`, label by label. -/
theorem micro_space : (micro s).cfg = s.cfg ∧ (micro s).hb = s.hb := by
  cases hs : s.seq with
  | nil => simp only [micro, hs, and_self]
  | cons l up =>
    cases l <;> simp only [micro, hs]
    case start1 => exact startStep_space s
    case in1 => exact initReset_space s
    case wr1 => exact writeFirst_space s
    case wr5 => exact writeAdvance_space s
    case rd1 | su2 | rs2 => split <;> exact ⟨rfl, rfl⟩
    case issue1 => exact issueSend_space up s _ _ _
    case issue2 => exact dataStep_space up s
    case issue4 => exact releaseStep_space up s
    case wait2 => exact waitStep_space up s
    case poll1 =>
      split
      · split <;> exact ⟨rfl, rfl⟩
      · exact ⟨rfl, rfl⟩
    case poll3 => exact pollTest_space up s
    case gs3 => simp
    all_goals exact ⟨rfl, rfl⟩

end Frame

/-! ### The other agents and the whole step -/

/-- What an agent other than CTRL does to `HB`: nothing, or one `MemWrite` (R42, R43). -/
theorem agentStep_space {e : Event} {s t : State} (h : agentStep e s = .next t) :
    t.cfg = s.cfg ∧ (t.hb = s.hb ∨ ∃ a v, memWrite s.cfg s.hb a v = some t.hb) := by
  cases e with
  | ctrl a => cases h; exact ⟨rfl, .inl rfl⟩
  | hostWrite addr w v =>
    simp only [agentStep] at h
    split at h <;> cases h
    rename_i i _
    rcases regWrite_cases i v s with h | ⟨-, -, h⟩ | ⟨-, -, h⟩ | ⟨-, -, h⟩ | ⟨-, -, h⟩ <;> rw [h] <;>
      exact ⟨rfl, .inl rfl⟩
  | hostRead addr w =>
    simp only [agentStep] at h
    split at h <;> cases h
    exact ⟨rfl, .inl rfl⟩
  | hbWrite addr d =>
    simp only [agentStep] at h
    split at h <;> cases h
    next hm => exact ⟨rfl, .inr ⟨_, _, hm⟩⟩
  | hbRead addr n =>
    simp only [agentStep] at h
    split at h <;> cases h
    exact ⟨rfl, .inl rfl⟩
  | tick => cases h; simp
  | cbRx done =>
    obtain rfl | ⟨_, _, _, _, _, _, _, hm, rfl⟩ := completeRx_cases h
    · exact ⟨rfl, .inl rfl⟩
    · exact ⟨rfl, .inr ⟨_, _, hm⟩⟩
  | cbTx done =>
    obtain rfl | ⟨_, _, _, _, _, rfl⟩ := completeTx_cases h <;> exact ⟨rfl, .inl rfl⟩
  | linkStore k i b =>
    obtain rfl | ⟨_, _, _, _, hm, rfl⟩ := storeEarly_cases h
    · exact ⟨rfl, .inl rfl⟩
    · exact ⟨rfl, .inr ⟨_, _, hm⟩⟩
  | linkFetch k i =>
    obtain rfl | ⟨_, _, _, _, rfl⟩ := fetchEarly_cases h <;> exact ⟨rfl, .inl rfl⟩
  | linkResidue i b =>
    obtain rfl | ⟨_, _, _, hm, rfl⟩ := residue_cases h
    · exact ⟨rfl, .inl rfl⟩
    · exact ⟨rfl, .inr ⟨_, _, hm⟩⟩
  | linkDropRx k => cases h; exact ⟨rfl, .inl rfl⟩
  | linkDropTx k => cases h; exact ⟨rfl, .inl rfl⟩
  | rst => cases h; exact ⟨rfl, .inl rfl⟩

/-- What a step of any agent does to `HB`: nothing, or one `MemWrite`; the configuration stays (R6). -/
theorem step_space {s t : State} (h : step s = .next t) :
    t.cfg = s.cfg ∧ (t.hb = s.hb ∨ ∃ a v, memWrite s.cfg s.hb a v = some t.hb) := by
  unfold step at h
  split at h
  · split at h
    next => cases h; exact ⟨rfl, .inl rfl⟩
    next ans rest _ =>
      obtain rfl := ctrlStep_next_eq_micro h
      obtain ⟨hcfg, hhb⟩ := micro_space (s.takeEvent (.ctrl ans) rest)
      exact ⟨hcfg, .inl hhb⟩
    next e rest _ _ => simpa only [takeEvent_cfg, takeEvent_hb] using agentStep_space h
  · cases h

/-- Settles O50: `MemWrite` keeps the canonical form and the bound of the space. -/
theorem bufferStaysCanonical : Obligations.BufferStaysCanonical := by
  rintro s t ⟨hwf, hbound⟩ hst
  obtain ⟨hcfg, hhb⟩ := step_space hst
  refine ⟨?_, hcfg⟩
  rw [HbOk, hcfg]
  rcases hhb with hhb | ⟨a, v, hm⟩
  · rw [hhb]
    exact ⟨hwf, hbound⟩
  · exact memWrite_keeps hm hwf hbound

end Sys2Proof.Machine
end

section
/-! The two encodings (spec/30_encoding.md): the packing of a descriptor and the reading of its fields (rules R64 to R67,
R72), the host operation word (rules R61, R73), and the decoder as the inverse of the encoder. -/

namespace Sys2Proof

/-! ### The codes of a field (R64, R65, R66) -/

@[simp] theorem Mode.ofCode_code (m : Mode) : Mode.ofCode m.code = m := by cases m <;> rfl

@[simp] theorem Size.ofCode_code (s : Size) : Size.ofCode s.code = s := by cases s <;> rfl

@[simp] theorem Dir.ofCode_code (d : Dir) : Dir.ofCode d.code = d := by cases d <;> rfl

@[simp] theorem Lines.mode_ne_none (l : Lines) : l.mode ≠ .none := by cases l <;> decide

/-! ### The packed descriptor (R64, R72) -/

@[simp] theorem Command.pack_cw0 (m : Command) : m.pack.cw0 = m.cw0 := rfl
@[simp] theorem Command.pack_cw1 (m : Command) : m.pack.cw1 = m.addr := rfl
@[simp] theorem Command.pack_cw2 (m : Command) : m.pack.cw2 = m.alt := rfl
@[simp] theorem Command.pack_cw3 (m : Command) : m.pack.cw3 = m.dlen := rfl

/-- The library turns one concatenation into a shift and an `or`; `CW0` is nine of them, highest field first, and R64
lists the lowest first, so the two sums differ in their order alone. -/
theorem Command.cw0_eq_or_shiftLeft (m : Command) :
    m.cw0 = m.opcode.setWidth 32 ||| (m.imode.code.setWidth 32 <<< 8) ||| (m.amode.code.setWidth 32 <<< 10)
      ||| (m.asize.code.setWidth 32 <<< 12) ||| (m.abmode.code.setWidth 32 <<< 14)
      ||| (m.absize.code.setWidth 32 <<< 16) ||| (m.dmode.code.setWidth 32 <<< 18)
      ||| (m.ddir.code.setWidth 32 <<< 20) ||| (m.dummy.setWidth 32 <<< 21) := by
  rw [← BitVec.setWidth_eq m.cw0, cw0]
  simp only [BitVec.setWidth_append_eq_shiftLeft_setWidth_or, BitVec.shiftLeft_or_distrib]
  simp only [← BitVec.shiftLeft_add, Nat.reduceAdd, BitVec.setWidth_zero, BitVec.zero_shiftLeft, BitVec.zero_or]
  grind only

/-- Every field read from `CW0` skips the fields packed below it and stops short of those above. -/
@[simp] theorem Command.fields_pack (m : Command) : m.pack.fields = m := by
  simp (disch := decide) only [Packed.fields, pack_cw0, cw0, BitVec.extractLsb'_append_eq_of_le,
    BitVec.extractLsb'_append_eq_of_add_le]
  simp

@[simp] theorem Command.cw0_reserved (m : Command) : m.cw0.extractLsb' 26 6 = 0 := by
  simp (disch := decide) only [cw0, BitVec.extractLsb'_append_eq_of_le]
  rfl

/-- The opcode byte, which the decoder reads first. -/
@[simp] theorem Command.cw0_opcode (m : Command) : m.cw0.extractLsb' 0 8 = m.opcode :=
  congrArg Command.opcode m.fields_pack

/-! ### The descriptors of the encoder (R67, R102) -/

/-- A kind gives a phase either a line count, which is never `NONE` (R65), or the zeros of `Command.zero`. -/
theorem encodeCmd_canonical (c : Config) (k : Kind) (a n : Word) :
    ((encodeCmd c k a n).amode = .none → (encodeCmd c k a n).asize = .b8 ∧ (encodeCmd c k a n).addr = 0)
    ∧ ((encodeCmd c k a n).abmode = .none → (encodeCmd c k a n).absize = .b8 ∧ (encodeCmd c k a n).alt = 0)
    ∧ ((encodeCmd c k a n).dmode = .none → (encodeCmd c k a n).ddir = .rx ∧ (encodeCmd c k a n).dlen = 0) := by
  cases k with
  | rdStatus | rdSecurity | rdCfg | wrCfg => simp [encodeCmd, Config.regCmd, Config.bareCmd, Command.zero]
  | readArray | memmapCfg => simp [encodeCmd, Config.readCmd]
  | pageProgram | eraseBlock | chipErase | writeEnable | lpEnter | lpExit | suspend | resume =>
    simp [encodeCmd, Config.bareCmd, Command.zero]

theorem canonicalZeros_encodeCmd (c : Config) (k : Kind) (a n : Word) :
    canonicalZeros (encodeCmd c k a n) = true := by
  obtain ⟨haddr, halt, hdata⟩ := encodeCmd_canonical c k a n
  simp only [canonicalZeros, Bool.and_eq_true, Bool.or_eq_true, bne_iff_ne, beq_iff_eq, ← imp_iff_not_or]
  exact ⟨⟨fun h => (haddr h).2, fun h => (halt h).2⟩, fun h => (hdata h).2⟩

@[simp] theorem encodeCmd_opcode (c : Config) (k : Kind) (a n : Word) :
    (encodeCmd c k a n).opcode = c.opcode k := by cases k <;> rfl

/-- The kind that an opcode byte names: `K_MEMMAP_CFG` shares the opcode of `K_READ_ARRAY` (R102). -/
def Kind.named (k : Kind) : Kind := if k = .memmapCfg then .readArray else k

theorem Kind.named_eq_self {k : Kind} (h : k ≠ .memmapCfg) : k.named = k := if_neg h

/-- `CW0` holds no operand and no length, and `K_MEMMAP_CFG` has the `CW0` of a read. -/
theorem encodeCmd_named_cw0 (c : Config) (k : Kind) (a n a' n' : Word) :
    (encodeCmd c k.named a' n').cw0 = (encodeCmd c k a n).cw0 := by cases k <;> rfl

/-! ### The decoder on what the encoder makes -/

/-- The checks of `decodeDescriptor` all pass, so only the test for the memory-mapped template is left; `rfl` equates
the two spellings of its decision procedure. -/
theorem decodeDescriptor_pack_encodeCmd {c : Config} (hc : c.opcodesDistinct = true) (k : Kind) (a n : Word) :
    decodeDescriptor c (encodeCmd c k a n).pack =
      if k.named = .readArray ∧ (encodeCmd c k a n).dlen = 0 then
        if (encodeCmd c k a n).addr = 0 then .ok .kMemmapCfg else .error .emptyRead
      else .ok (k.named.instr (encodeCmd c k a n).addr (encodeCmd c k a n).dlen) := by
  have hkind : kindOfOpcode c (c.opcode k) = some k.named := Laws.kindOfOpcode_opcode c hc k
  simp only [decodeDescriptor, Command.pack_cw0, Command.cw0_reserved, Command.cw0_opcode, encodeCmd_opcode, hkind,
    encodeCmd_named_cw0 c k a n, Command.fields_pack, canonicalZeros_encodeCmd, Command.pack_cw1, Command.pack_cw3,
    ne_eq, not_true_eq_false, Bool.true_eq_false, if_false]
  rfl

/-- The descriptor carries the operands that the instruction of its kind uses (R71). -/
theorem instr_of_linkArgs {c : Config} {i : Instr} {k : Kind} {a n : Word} (h : i.linkArgs = some (k, a, n)) :
    k.instr (encodeCmd c k a n).addr (encodeCmd c k a n).dlen = i := by
  cases i <;> cases h <;> rfl

/-- `K_MEMMAP_CFG` is the one instruction of its kind. -/
theorem eq_kMemmapCfg_of_linkArgs {i : Instr} {a n : Word} (h : i.linkArgs = some (.memmapCfg, a, n)) :
    i = .kMemmapCfg := by
  cases i <;> cases h
  rfl

/-- A well-formed read is not empty (R95), which tells it from the memory-mapped template (R102). -/
theorem dlen_ne_zero_of_wf_read {c : Config} {i : Instr} {a n : Word} (h : i.linkArgs = some (.readArray, a, n))
    (hwf : i.wf c = true) : (encodeCmd c .readArray a n).dlen ≠ 0 := by
  cases i with
  | kReadArray a n =>
    cases h
    rintro (rfl : n = 0)
    simp [Instr.wf] at hwf
  | _ => cases h

/-- The link side of the round trip (R64, R72, R102). -/
theorem decodeDescriptor_of_linkArgs {c : Config} {i : Instr} {k : Kind} {a n : Word}
    (hc : c.opcodesDistinct = true) (hwf : i.wf c = true) (h : i.linkArgs = some (k, a, n)) :
    decodeDescriptor c (encodeCmd c k a n).pack = .ok i := by
  rw [decodeDescriptor_pack_encodeCmd hc]
  by_cases hk : k = .memmapCfg
  · subst hk
    rw [eq_kMemmapCfg_of_linkArgs h]
    rfl
  · have hread : ¬ (k = .readArray ∧ (encodeCmd c k a n).dlen = 0) := by
      rintro ⟨rfl, hlen⟩
      exact dlen_ne_zero_of_wf_read h hwf hlen
    rw [Kind.named_eq_self hk, if_neg hread, instr_of_linkArgs h]

/-- The host side of the round trip (R61, R73). -/
theorem decodeOp_opCode {i : Instr} (h : i.linkArgs = none) : decodeOp (opCode i) = i := by
  cases i with
  | kRdStatus | kRdSecurity | kRdCfg | kWrCfg | kReadArray | kPageProgram | kEraseBlock | kChipErase | kWriteEnable
  | kLpEnter | kLpExit | kMemmapCfg | kSuspend | kResume => cases h
  | _ => rfl

/-! ### The host operation word (R61, R73) -/

theorem opField_toNat (v : Word) : (opField v).toNat = v.toNat % 16 := by
  simp [opField]

/-- The sixteen codes in order. -/
theorem hostOperations_getElem? (op : BitVec 4) :
    [Instr.reserved0, .init, .getInfo, .read, .write, .eraseBlock, .eraseChip, .getStatus, .suspendErase,
      .resumeErase, .enterLowPower, .leaveLowPower, .reservedC, .reservedD, .reservedE, .reservedF][op.toNat]?
      = some (decodeOp op) := by
  revert op
  decide

end Sys2Proof

namespace Sys2Proof.Encoding

open Sys2Proof.Machine

/-- Settles O1: a host operation by its code, a link command by its packed descriptor. -/
theorem decodeOfEncode : Obligations.DecodeOfEncode := by
  intro c i _ hc hwf
  unfold encode
  cases h : i.linkArgs with
  | none => simp only [decode, opField_setWidth, decodeOp_opCode h]
  | some args => exact decodeDescriptor_of_linkArgs hc hwf h

/-- Settles O2: the concatenation of `CW0` is the sum of shifted fields; the codes are those of the model. -/
theorem descriptorWordLayout : Obligations.DescriptorWordLayout :=
  ⟨fun m => ⟨m.cw0_eq_or_shiftLeft, m.pack_cw1, m.pack_cw2, m.pack_cw3⟩, by decide⟩

/-- Settles O3: field extraction undoes packing. -/
theorem packedFieldsRoundTrip : Obligations.PackedFieldsRoundTrip :=
  fun m => ⟨m.fields_pack, m.cw0_reserved⟩

/-- Settles O4: the decoder reads `OPCMD[3:0]`, which is the word modulo 16. -/
theorem hostWordSelectsOperation : Obligations.HostWordSelectsOperation := by
  intro c v
  refine ⟨decodeOp (opField v), rfl, ?_⟩
  rw [← opField_toNat]
  exact hostOperations_getElem? (opField v)

/-- Settles O8: the canonical zeros, kind by kind. -/
theorem canonicalZeros : Obligations.CanonicalZeros := encodeCmd_canonical

end Sys2Proof.Encoding
end

section
/-! The Command Encoder (spec/40_command_encoder.md): the shapes of its descriptors (rules R91 to R104), its laws (rule
R105), and the words the spec writes out. -/

namespace Sys2Proof

open Sys2Proof.Machine

/-! ### The shapes of a descriptor (R91 to R104) -/

theorem bareCmd_eq_instructionOnly (c : Config) (o : Byte) : c.bareCmd o = instructionOnly c o := rfl

theorem regCmd_eq_registerTransfer (c : Config) (o : Byte) (dir : Dir) (n : Word) :
    c.regCmd o dir n = registerTransfer c o dir n := rfl

theorem readCmd_eq_arrayRead (c : Config) (a n : Word) : c.readCmd a n = arrayRead c a n := rfl

/-! ### The laws of the encoder (R105) -/

/-- Law (a). -/
@[simp] theorem encodeCmd_imode (c : Config) (k : Kind) (a n : Word) : (encodeCmd c k a n).imode = c.im.mode := by
  cases k <;> rfl

/-- Law (b): an address phase has the line count of a parameter, which is never `NONE` (R65). -/
theorem encodeCmd_amode_ne_none_iff (c : Config) (k : Kind) (a n : Word) :
    (encodeCmd c k a n).amode ≠ .none ↔ k ∈ [Kind.readArray, .pageProgram, .eraseBlock, .memmapCfg] := by
  cases k with
  | readArray | pageProgram | eraseBlock | memmapCfg => exact iff_of_true (Lines.mode_ne_none _) (by decide)
  | _ => exact iff_of_false (fun h => h rfl) (by decide)

/-- Law (c): alternate bytes go with the read descriptor alone (R95, R102). -/
theorem encodeCmd_abmode_ne_none_iff (c : Config) (k : Kind) (a n : Word) :
    (encodeCmd c k a n).abmode ≠ .none ↔ k ∈ [Kind.readArray, .memmapCfg] := by
  cases k with
  | readArray | memmapCfg => exact iff_of_true (Lines.mode_ne_none _) (by decide)
  | _ => exact iff_of_false (fun h => h rfl) (by decide)

/-- Law (d): the read descriptor has `DUMMY_READ` cycles, every other one has none. -/
theorem encodeCmd_dummy_ne_zero_iff (c : Config) (k : Kind) (a n : Word) :
    (encodeCmd c k a n).dummy ≠ 0 ↔ k ∈ [Kind.readArray, .memmapCfg] ∧ c.dummyRead ≠ 0 := by
  cases k with
  | readArray | memmapCfg => exact (and_iff_right (by decide)).symm
  | _ => exact iff_of_false (fun h => h rfl) (fun h => absurd h.1 (by decide))

/-- Law (e). -/
theorem encodeCmd_ddir_eq_tx_iff (c : Config) (k : Kind) (a n : Word) :
    (encodeCmd c k a n).ddir = .tx ↔ k ∈ [Kind.wrCfg, .pageProgram] := by
  cases k with
  | wrCfg | pageProgram => exact iff_of_true rfl (by decide)
  | _ => exact iff_of_false Dir.noConfusion (by decide)

/-- Law (f), of every descriptor: its reserved bits are 0, so `CW0` is less than their weight. -/
theorem Command.cw0_toNat_lt (m : Command) : m.cw0.toNat < 2 ^ 26 := by
  have hreserved : m.cw0.toNat >>> 26 % 2 ^ 6 = 0 := by
    rw [← BitVec.extractLsb'_toNat, m.cw0_reserved]
    rfl
  rw [Nat.shiftRight_eq_div_pow] at hreserved
  have hword := m.cw0.isLt
  omega

/-! ### The words the spec writes out (R91 to R102) -/

/-- A word is decoded by showing it is what the encoder makes of the instruction (O1). -/
theorem decode_pQuad_of_encode_eq {i : Instr} {x : Code} (hwf : i.wf Config.pQuad = true)
    (hx : encode Config.pQuad i = x) : decode Config.pQuad x = .ok i :=
  hx ▸ Encoding.decodeOfEncode Config.pQuad i (by decide) (by decide) hwf

end Sys2Proof

namespace Sys2Proof.Encoding

open Sys2Proof.Machine

/-- Settles O5: register kinds have an instruction and a data phase, control kinds an instruction alone. -/
theorem registerAndControlDescriptors : Obligations.RegisterAndControlDescriptors := fun c _ n =>
  ⟨regCmd_eq_registerTransfer c c.opcRdStatus .rx 1,
    regCmd_eq_registerTransfer c c.opcRdSecurity .rx 1,
    regCmd_eq_registerTransfer c c.opcRdCfg .rx (BitVec.ofNat 32 c.cfgLen),
    regCmd_eq_registerTransfer c c.opcWrCfg .tx n,
    bareCmd_eq_instructionOnly c c.opcChipErase,
    bareCmd_eq_instructionOnly c c.opcWriteEnable,
    bareCmd_eq_instructionOnly c c.opcLpEnter,
    bareCmd_eq_instructionOnly c c.opcLpExit,
    bareCmd_eq_instructionOnly c c.opcSuspend,
    bareCmd_eq_instructionOnly c c.opcResume⟩

/-- Settles O6: `K_MEMMAP_CFG` is the read of address and length 0; program and erase add their phases to an
instruction-only descriptor. -/
theorem arrayDescriptors : Obligations.ArrayDescriptors := fun c a n =>
  ⟨readCmd_eq_arrayRead c a n, rfl, rfl, readCmd_eq_arrayRead c 0 0⟩

/-- Settles O7: laws (a) to (g), in order. -/
theorem encoderLaws : Obligations.EncoderLaws := fun c k a n =>
  ⟨encodeCmd_imode c k a n,
    encodeCmd_imode c k a n ▸ c.im.mode_ne_none,
    encodeCmd_amode_ne_none_iff c k a n,
    encodeCmd_abmode_ne_none_iff c k a n,
    encodeCmd_dummy_ne_zero_iff c k a n,
    encodeCmd_ddir_eq_tx_iff c k a n,
    (encodeCmd c k a n).cw0_toNat_lt,
    rfl⟩

/-- Settles O9: each word is the encoding of its instruction, so the round trip O1 decodes it. -/
theorem specWordsDecode : Obligations.SpecWordsDecode := by
  refine ⟨?_, ?_, ?_, ?_, ?_, ?_, ?_⟩ <;> exact decode_pQuad_of_encode_eq (by decide) (by decide)

end Sys2Proof.Encoding
end

section
/-! The Transport Engine (spec/41_transport_sync.md rules R127 to R131): what each label of `Issue` and `WaitFor` does
when the link accepts, said once per style, and the link commands as uses of it. -/

namespace Sys2Proof.Machine

/-! ### The return to the caller (R11, log 4) -/

/-- A return replaces the label stack, whatever it was. -/
@[simp] theorem returnTo_at (up q : List Label) (s : State) : returnTo up (s.at q) = returnTo up s := by
  induction up with
  | nil => rfl
  | cons l up ih =>
    cases l with
    | wren2 => exact ih
    | _ => rfl

/-- The verify steps of INIT: a clear mode bit raises VerificationError (R168, R198). -/
theorem verify_eq_ite (v mask : Byte) (q : List Label) (s : State) :
    (if anyBit v mask then s.at q else raise .verify s)
      = if v &&& mask = 0 then s.endedWith 3 s.work.stage.toNat 0 else s.at q := by
  rw [raise_eq_endedWith]
  by_cases h : v &&& mask = 0
  · rw [if_neg (by simpa [anyBit] using h), if_pos h]
    rfl
  · rw [if_pos (by simpa [anyBit] using h), if_neg h]

/-! ### The labels of `Issue` and `WaitFor` (R127, R131) -/

section Labels

variable (k : Kind) (a n : Word) (up : List Label) (s : State)

theorem exec_at_issue1 :
    exec (k.instr a n) (s.at (.issue1 :: up)) = .next (issueSend k a n up (s.at (.issue1 :: up))) :=
  exec_link k a n _

theorem exec_at_issue2 : exec (k.instr a n) (s.at (.issue2 :: up)) = issueData k up (s.at (.issue2 :: up)) :=
  exec_link k a n _

theorem exec_at_issue3 : exec (k.instr a n) (s.at (.issue3 :: up)) = .next (s.at (.wait1 :: .issue3 :: up)) :=
  exec_link k a n _

theorem exec_at_issue4 : exec (k.instr a n) (s.at (.issue4 :: up)) = issueRelease k up (s.at (.issue4 :: up)) :=
  exec_link k a n _

theorem exec_at_wait1 :
    exec (k.instr a n) (s.at (.wait1 :: up))
      = .next (({ s with work.tmr := s.cfg.tXfer } : State).at (.wait2 :: up)) :=
  exec_link k a n _

theorem exec_at_wait2 : exec (k.instr a n) (s.at (.wait2 :: up)) = waitSignal k up (s.at (.wait2 :: up)) :=
  exec_link k a n _

end Labels

/-! ### What an accepted primitive does (R122 to R125, R127) -/

section Accepted

variable {s : State} {b : Bytes4} (hans : s.io.ans = .ok b) (k : Kind) (a n : Word) (up : List Label)

include hans

/-- A command without a data phase is complete when the link accepts it. -/
theorem exec_send_dataless (hk : k.style = .none) :
    exec (k.instr a n) (s.at (.issue1 :: up)) = .next (returnTo up (s.sent k (encodeCmd s.cfg k a n) true)) := by
  rw [exec_at_issue1, ← returnTo_at up (.issue1 :: up)]
  simp only [issueSend, at_io, hans, hk, if_true]
  rfl

/-- A command with a data phase goes on to it. -/
theorem exec_send_data (hk : k.style ≠ .none) :
    exec (k.instr a n) (s.at (.issue1 :: up))
      = .next ((s.sent k (encodeCmd s.cfg k a n) true).at (.issue2 :: up)) := by
  rw [exec_at_issue1]
  simp only [issueSend, at_io, hans, hk, if_false]
  rfl

/-- A register read puts the link's bytes in `REGBUF` and returns. -/
theorem exec_register_read (hk : k.style = .blkRx) :
    exec (k.instr a n) (s.at (.issue2 :: up))
      = .next (returnTo up
          (({ s with work.regbuf := s.work.regbuf.receive s.work.cmd.dlen.toNat b } : State).traced
            (.rxb s.work.cmd.dlen s.cfg.tBlocking (some (b.take s.work.cmd.dlen.toNat))))) := by
  rw [exec_at_issue2, ← returnTo_at up (.issue2 :: up)]
  simp only [issueData, hk, issueRxb, at_io, hans]
  rfl

/-- A register write hands the first bytes of `REGBUF` to the link and returns. -/
theorem exec_register_write (hk : k.style = .blkTx) :
    exec (k.instr a n) (s.at (.issue2 :: up))
      = .next (returnTo up
          (s.traced (.txb (s.work.regbuf.take s.work.cmd.dlen.toNat) s.cfg.tBlocking true))) := by
  rw [exec_at_issue2, ← returnTo_at up (.issue2 :: up)]
  simp only [issueData, hk, issueTxb, at_io, hans]
  rfl

/-- An accepted receive is in flight and holds its handle. -/
theorem exec_array_read (hk : k.style = .asyncRx) :
    exec (k.instr a n) (s.at (.issue2 :: up))
      = .next ((({ s with
          regs.rxh := true
          link.rx := s.link.rx ++ [⟨s.work.arg.ptr, s.work.cmd.dlen⟩] } : State).traced
            (.rxa s.work.arg.ptr s.work.cmd.dlen true)).at (.issue3 :: up)) := by
  rw [exec_at_issue2]
  simp only [issueData, hk, issueRxa, at_io, hans]
  rfl

/-- An accepted transmit is in flight and holds its handle. -/
theorem exec_array_program (hk : k.style = .asyncTx) :
    exec (k.instr a n) (s.at (.issue2 :: up))
      = .next ((({ s with
          regs.txh := true
          link.tx := s.link.tx ++ [⟨s.work.arg.ptr, s.work.cmd.dlen, []⟩] } : State).traced
            (.txa s.work.arg.ptr s.work.cmd.dlen true)).at (.issue3 :: up)) := by
  rw [exec_at_issue2]
  simp only [issueData, hk, issueTxa, at_io, hans]
  rfl

end Accepted

/-! ### The end of a transfer (R127, R129, R131) -/

/-- `WAIT.2` on `RXSIG`, called from `ISSUE.3`: a signal, else a time-out, returns to `ISSUE.4`; with neither CTRL
stays. -/
theorem waitRx_issue3 (up : List Label) (s : State) :
    waitRx (.issue3 :: up) s
      = if s.regs.rxsig ≠ 0 then
          ({ s with regs.rxsig := s.regs.rxsig - 1, work.waited := .ok } : State).at (.issue4 :: up)
        else if s.work.tmr = 0 then ({ s with work.waited := .timeout } : State).at (.issue4 :: up)
        else s := rfl

theorem waitTx_issue3 (up : List Label) (s : State) :
    waitTx (.issue3 :: up) s
      = if s.regs.txsig ≠ 0 then
          ({ s with regs.txsig := s.regs.txsig - 1, work.waited := .ok } : State).at (.issue4 :: up)
        else if s.work.tmr = 0 then ({ s with work.waited := .timeout } : State).at (.issue4 :: up)
        else s := rfl

/-- `ISSUE.4` with the handle released: TimeoutError, or the return. -/
theorem issueEnd_eq_ite (up : List Label) (s : State) :
    issueEnd up s
      = if s.work.waited = .timeout then s.endedWith 2 s.work.stage.toNat 0 else returnTo up s := by
  rw [issueEnd, raise_eq_endedWith]
  rfl

/-- Settles O38: each command is sent and returns; SUSPEND_ERASE and RESUME_ERASE complete on the return. -/
theorem datalessCommands : Obligations.DatalessCommands := by
  intro s b hans
  have send (k : Kind) (a : Word) (up : List Label) := exec_send_dataless hans k a 0 up
  refine ⟨fun up => send .writeEnable 0 _ rfl, fun a => send .eraseBlock a _ rfl, send .chipErase 0 _ rfl,
    send .lpEnter 0 _ rfl, send .lpExit 0 _ rfl, ?_, ?_, send .memmapCfg 0 _ rfl⟩
  · exact (send .suspend 0 _ rfl).trans (congrArg _ (complete_eq_endedWith .ok 0 false _))
  · exact (send .resume 0 _ rfl).trans (congrArg _ (complete_eq_endedWith .ok 0 false _))

/-- Settles O39, kind by kind. -/
theorem dataCommandsAreSent : Obligations.DataCommandsAreSent := by
  intro s b up a n hans
  have send (k : Kind) (hk : k.style ≠ .none) := exec_send_data hans k a n up hk
  exact ⟨send .rdStatus nofun, send .rdSecurity nofun, send .rdCfg nofun, send .wrCfg nofun, send .readArray nofun,
    send .pageProgram nofun⟩

/-! ### The bytes of a register read (R123, R168) -/

theorem Bytes4.ext_get {x y : Bytes4} (h : ∀ j < 4, x.get j = y.get j) : x = y := by
  obtain ⟨x0, x1, x2, x3⟩ := x
  obtain ⟨y0, y1, y2, y3⟩ := y
  rw [Bytes4.mk.injEq]
  exact ⟨h 0 (by omega), h 1 (by omega), h 2 (by omega), h 3 (by omega)⟩

theorem Bytes3.ext_get {x y : Bytes3} (h : ∀ j < 3, x.get j = y.get j) : x = y := by
  obtain ⟨x0, x1, x2⟩ := x
  obtain ⟨y0, y1, y2⟩ := y
  rw [Bytes3.mk.injEq]
  exact ⟨h 0 (by omega), h 1 (by omega), h 2 (by omega)⟩

/-- `REGBUF[0 .. n-1]` holds the bytes received, the rest is kept (R127). -/
theorem Bytes4.get_receive (old bytes : Bytes4) (n : Nat) {j : Nat} (hj : j < 4) :
    (old.receive n bytes).get j = if j < n then bytes.get j else old.get j := by
  match j, hj with
  | 0, _ | 1, _ | 2, _ | 3, _ => rfl

/-- `cfg_t[0 .. CFG_LEN-1]` holds the bytes of `REGBUF`, the rest is kept (R168 `IN.9`). -/
theorem Bytes3.get_keepConfig (old : Bytes3) (c : Config) (b : Bytes4) {j : Nat} (hj : j < 3) :
    (old.keepConfig c b).get j = if j < c.cfgLen then b.get j else old.get j := by
  match j, hj with
  | 0, _ | 1, _ | 2, _ => rfl

/-- Settles O40: the read returns, and each caller's lines are one case of `returnTo`. -/
theorem registerReadsReturn : Obligations.RegisterReadsReturn := by
  rintro s b r q up n hans rfl hr hq t rfl
  obtain rfl : r = s.work.regbuf.receive s.work.cmd.dlen.toNat b :=
    Bytes4.ext_get fun j hj => (hr j hj).trans (Bytes4.get_receive _ _ _ hj).symm
  obtain rfl : q = s.work.cfgT.keepConfig s.cfg (s.work.regbuf.receive s.work.cmd.dlen.toNat b) :=
    Bytes3.ext_get fun j hj => (hq j hj).trans (Bytes3.get_keepConfig _ _ _ hj).symm
  have read (k : Kind) (up : List Label) (hk : k.style = .blkRx) := exec_register_read hans k 0 0 up hk
  refine ⟨read .rdStatus _ rfl, read .rdSecurity _ rfl, read .rdStatus _ rfl, read .rdStatus _ rfl, ?_,
    read .rdStatus _ rfl, read .rdCfg _ rfl, ?_⟩
  · exact (read .rdStatus _ rfl).trans (congrArg _ (verify_eq_ite _ _ [.in8] _))
  · exact (read .rdCfg _ rfl).trans (congrArg _ (verify_eq_ite _ _ [.in14] _))

/-- Settles O41, for each of the two writes of INIT. -/
theorem registerWriteReturns : Obligations.RegisterWriteReturns := by
  rintro s b n hans t rfl
  exact ⟨exec_register_write hans .wrCfg 0 n _ rfl, exec_register_write hans .wrCfg 0 n _ rfl⟩

/-! ### The array transfers (R124, R125, R129, R131) -/

/-- Settles O42, label by label of the data phase. -/
theorem readArrayTransfer : Obligations.ReadArrayTransfer := by
  intro s a n up
  refine ⟨fun b hans => exec_array_read hans .readArray a n up rfl, exec_at_issue3 .readArray a n up s,
    exec_at_wait1 .readArray a n up s, ?_, ?_⟩
  · exact (exec_at_wait2 .readArray a n (.issue3 :: up) s).trans (congrArg _ (waitRx_issue3 up _))
  · exact (exec_at_issue4 .readArray a n [.rd2] s).trans (congrArg _ (issueEnd_eq_ite _ _))

/-- Settles O43, label by label of the data phase. -/
theorem pageProgramTransfer : Obligations.PageProgramTransfer := by
  intro s a n up
  refine ⟨fun b hans => exec_array_program hans .pageProgram a n up rfl, exec_at_issue3 .pageProgram a n up s,
    exec_at_wait1 .pageProgram a n up s, ?_, ?_⟩
  · exact (exec_at_wait2 .pageProgram a n (.issue3 :: up) s).trans (congrArg _ (waitTx_issue3 up _))
  · exact (exec_at_issue4 .pageProgram a n [.wr3] s).trans (congrArg _ (issueEnd_eq_ite _ _))

end Sys2Proof.Machine
end

section
/-! The completion callbacks (spec/41_transport_sync.md rules R126, R130): a callback raises its signal, and leaves the
rest of the block. -/

namespace Sys2Proof.Machine

/-- What a callback does to the block, whatever data the LINK moves with it (R130, R43). -/
theorem completeRx_frame {done : Option (Nat × List Byte)} {s t : State} (h : completeRx done s = .next t) :
    t.regs = s.rxRaised.regs ∧ t.seq = s.seq ∧ t.work = s.work ∧ t.cfg = s.cfg ∧ t.link.tx = s.link.tx
      ∧ t.link.sent = s.link.sent ∧ t.io = s.io := by
  rcases completeRx_cases h with rfl | ⟨_, _, _, _, -, -, -, -, rfl⟩ <;> rw [signalRx_eq_rxRaised] <;>
    exact ⟨rfl, rfl, rfl, rfl, rfl, rfl, rfl⟩

theorem completeTx_frame {done : Option Nat} {s t : State} (h : completeTx done s = .next t) :
    t.regs = s.txRaised.regs ∧ t.seq = s.seq ∧ t.work = s.work ∧ t.cfg = s.cfg ∧ t.hb = s.hb
      ∧ t.link.rx = s.link.rx ∧ t.io = s.io := by
  rcases completeTx_cases h with rfl | ⟨_, _, -, -, -, rfl⟩ <;> rw [signalTx_eq_txRaised] <;>
    exact ⟨rfl, rfl, rfl, rfl, rfl, rfl, rfl⟩

/-- A callback that belongs to no transfer only signals (R126, U11). -/
theorem completeRx_none (s : State) : completeRx none s = .next s.rxRaised :=
  congrArg Host.Outcome.next (signalRx_eq_rxRaised s)

theorem completeTx_none (s : State) : completeTx none s = .next s.txRaised :=
  congrArg Host.Outcome.next (signalTx_eq_txRaised s)

/-- A callback for no transfer in flight, or with data of another length, only signals (R126, log 8). -/
theorem completeRx_foreign {s : State} {k : Nat} {d : List Byte}
    (h : ∀ x, s.link.rx[k]? = some x → d.length ≠ x.len.toNat) :
    completeRx (some (k, d)) s = .next s.rxRaised := by
  cases hx : s.link.rx[k]? with
  | none => simp only [completeRx, hx, signalRx_eq_rxRaised]
  | some x => simp only [completeRx, hx, if_pos (h x hx), signalRx_eq_rxRaised]

theorem completeTx_foreign {s : State} {k : Nat} (h : s.link.tx[k]? = none) :
    completeTx (some k) s = .next s.txRaised := by
  simp only [completeTx, h, signalTx_eq_txRaised]

/-- Settles O20, callback by callback. -/
theorem callbackRaisesTheSignal : Obligations.CallbackRaisesTheSignal := by
  intro s rest hv
  refine ⟨fun done t he ht => ?rx, fun done t he ht => ?tx, fun he => ?rxNone, fun he => ?txNone,
    fun k d he hd => ?rxForeign, fun k he hk => ?txForeign⟩
  case rx =>
    rw [step_agent hv he nofun] at ht
    exact completeRx_frame ht
  case tx =>
    rw [step_agent hv he nofun] at ht
    exact completeTx_frame ht
  case rxNone =>
    rw [step_agent hv he nofun]
    exact completeRx_none _
  case txNone =>
    rw [step_agent hv he nofun]
    exact completeTx_none _
  case rxForeign =>
    rw [step_agent hv he nofun]
    exact completeRx_foreign (s := s.afterEvents rest) hd
  case txForeign =>
    rw [step_agent hv he nofun]
    exact completeTx_foreign (s := s.afterEvents rest) hk

end Sys2Proof.Machine
end

section
/-! The wait (spec/41_transport_sync.md rules R131, R132): the other agents leave CTRL where it is, and a wait ends once
its time-out many ticks have come. -/

namespace Sys2Proof.Machine

/-! ### The other agents -/

/-- The sequencer, the working registers, the handles and the schedule are those of `s`. -/
structure ControlKept (s t : State) : Prop where
  seq    : t.seq = s.seq
  work   : t.work = s.work
  rxh    : t.regs.rxh = s.regs.rxh
  txh    : t.regs.txh = s.regs.txh
  events : t.io.events = s.io.events

/-- What an agent other than CTRL does to the block: it ticks, resets it, starts an operation while idle (R165), or
leaves all that a wait and a handle depend on (R5). -/
theorem agentStep_block_cases {e : Event} {s t : State} (h : agentStep e s = .next t) :
    (e = .tick ∧ t = tick s) ∨ (e = .rst ∧ t = resetBlock s) ∨ (∃ v, s.seq = [] ∧ t = start v s)
      ∨ (e ≠ .tick ∧ ControlKept s t) := by
  cases e with
  | tick => cases h; exact .inl ⟨rfl, rfl⟩
  | rst => cases h; exact .inr (.inl ⟨rfl, rfl⟩)
  | hostWrite addr w v =>
    simp only [agentStep] at h
    split at h <;> cases h
    next i _ =>
      rcases regWrite_cases i v s with h | ⟨hs, -, h⟩ | ⟨-, -, h⟩ | ⟨-, -, h⟩ | ⟨-, -, h⟩ <;> rw [h]
      case inr.inl => exact .inr (.inr (.inl ⟨v, hs, rfl⟩))
      all_goals exact .inr (.inr (.inr ⟨nofun, rfl, rfl, rfl, rfl, rfl⟩))
  | hostRead | hbWrite | hbRead =>
    simp only [agentStep] at h
    split at h <;> cases h
    exact .inr (.inr (.inr ⟨nofun, rfl, rfl, rfl, rfl, rfl⟩))
  | cbRx done =>
    obtain ⟨hregs, hseq, hwork, -, -, -, hio⟩ := completeRx_frame h
    exact .inr (.inr (.inr ⟨nofun, hseq, hwork, by rw [hregs]; rfl, by rw [hregs]; rfl, by rw [hio]⟩))
  | cbTx done =>
    obtain ⟨hregs, hseq, hwork, -, -, -, hio⟩ := completeTx_frame h
    exact .inr (.inr (.inr ⟨nofun, hseq, hwork, by rw [hregs]; rfl, by rw [hregs]; rfl, by rw [hio]⟩))
  | linkStore k i b =>
    obtain rfl | ⟨_, _, _, _, _, rfl⟩ := storeEarly_cases h <;>
      exact .inr (.inr (.inr ⟨nofun, rfl, rfl, rfl, rfl, rfl⟩))
  | linkFetch k i =>
    obtain rfl | ⟨_, _, _, _, rfl⟩ := fetchEarly_cases h <;>
      exact .inr (.inr (.inr ⟨nofun, rfl, rfl, rfl, rfl, rfl⟩))
  | linkResidue i b =>
    obtain rfl | ⟨_, _, _, _, rfl⟩ := residue_cases h <;>
      exact .inr (.inr (.inr ⟨nofun, rfl, rfl, rfl, rfl, rfl⟩))
  | ctrl | linkDropRx | linkDropTx => cases h; exact .inr (.inr (.inr ⟨nofun, rfl, rfl, rfl, rfl, rfl⟩))

/-! ### A wait ends (R131, R132) -/

/-- `WAIT.2` with an expired timer returns to `ISSUE.3`, with a signal or with a time-out (R131). -/
theorem waitRx_expired (up : List Label) {s : State} (hz : s.work.tmr = 0) :
    (waitRx (.issue3 :: up) s).seq = .issue4 :: up ∧ (waitRx (.issue3 :: up) s).io = s.io := by
  simp only [waitRx_issue3, hz, if_true]
  split <;> exact ⟨rfl, rfl⟩

theorem waitTx_expired (up : List Label) {s : State} (hz : s.work.tmr = 0) :
    (waitTx (.issue3 :: up) s).seq = .issue4 :: up ∧ (waitTx (.issue3 :: up) s).io = s.io := by
  simp only [waitTx_issue3, hz, if_true]
  split <;> exact ⟨rfl, rfl⟩

/-- CTRL is at `WAIT.2` of an array transfer; before the rest of the schedule come the events `es` of the other agents,
without a reset, and among them as many ticks as `TMR` holds. -/
structure WaitBoundedBy (es : List Event) (up : List Label) (rest : List Event) (s : State) : Prop where
  valid  : s.cfg.valid = true
  seq    : s.seq = .wait2 :: .issue3 :: up
  style  : s.work.arg.kind.style = .asyncRx ∨ s.work.arg.kind.style = .asyncTx
  agents : ∀ e ∈ es, e ≠ .rst ∧ ∀ a, e ≠ .ctrl a
  bound  : s.work.tmr.toNat ≤ es.count .tick
  events : s.io.events = es ++ rest

/-- The other agents leave CTRL at its wait, and a tick takes one off the bound (R212). -/
theorem WaitBoundedBy.agent {e : Event} {es : List Event} {up : List Label} {rest : List Event} {s t : State}
    (h : WaitBoundedBy (e :: es) up rest s) (hst : step s = .next t) : WaitBoundedBy es up rest t := by
  obtain ⟨hreset, hctrl⟩ := h.agents e (by simp)
  have hagents : ∀ x ∈ es, x ≠ .rst ∧ ∀ a, x ≠ .ctrl a := fun x hx => h.agents x (by simp [hx])
  have hvalid : t.cfg.valid = true := (step_space hst).1 ▸ h.valid
  have hbound := h.bound
  rw [step_agent h.valid h.events hctrl] at hst
  rcases agentStep_block_cases hst with ⟨rfl, rfl⟩ | ⟨rfl, -⟩ | ⟨v, hidle, -⟩ | ⟨hne, hkept⟩
  · rw [List.count_cons_self] at hbound
    refine ⟨hvalid, by simpa using h.seq, by simpa [tick_work] using h.style, hagents, ?_, by simp⟩
    rw [tick_work, BitVec.toNat_ofNat, afterEvents_work]
    omega
  · exact absurd rfl hreset
  · exact absurd (h.seq.symm.trans hidle) (by simp)
  · rw [List.count_cons_of_ne hne] at hbound
    exact ⟨hvalid, hkept.seq.trans h.seq, hkept.work ▸ h.style, hagents, hkept.work ▸ hbound, hkept.events⟩

/-- With no tick left to come the timer has expired, and CTRL's turn ends the wait. -/
theorem WaitBoundedBy.ctrl {up : List Label} {rest : List Event} {ans : Answer} {s : State}
    (h : WaitBoundedBy [] up (.ctrl ans :: rest) s) :
    ∃ t, step s = .next t ∧ t.seq = .issue4 :: up ∧ t.io.events = rest := by
  have hz : s.work.tmr = 0 := BitVec.eq_of_toNat_eq (by simpa using h.bound)
  have hseq : (s.takeEvent (.ctrl ans) rest).seq = .wait2 :: .issue3 :: up := h.seq
  have hstep : step s
      = waitSignal s.work.arg.kind (.issue3 :: up) (s.takeEvent (.ctrl ans) rest) := by
    rw [step_ctrl h.valid h.events, ctrlStep, fetch_busy hseq]
    simp only [Label.isTransport, if_true, takeEvent_work, exec_link, issueStep, hseq]
  rw [hstep]
  rcases h.style with hst | hst <;> simp only [waitSignal, hst]
  · obtain ⟨hq, hio⟩ := waitRx_expired (s := s.takeEvent (.ctrl ans) rest) up hz
    exact ⟨_, rfl, hq, by rw [hio]; rfl⟩
  · obtain ⟨hq, hio⟩ := waitTx_expired (s := s.takeEvent (.ctrl ans) rest) up hz
    exact ⟨_, rfl, hq, by rw [hio]; rfl⟩

/-- A run of one step more is a step and the run from there. -/
theorem run_succ_of_step {s t : State} (h : step s = .next t) (k : Nat) :
    Sys2Proof.core.run (k + 1) s = Sys2Proof.core.run k t := by
  have hc : Sys2Proof.core.step s = .next t := h
  simp only [Host.Core.run, hc]

/-- A run that has a next state has one after its first step. -/
theorem step_next_of_run_succ {s u : State} {k : Nat} (h : Sys2Proof.core.run (k + 1) s = .next u) :
    ∃ t, step s = .next t ∧ Sys2Proof.core.run k t = .next u := by
  have hc : Sys2Proof.core.step s = step s := rfl
  simp only [Host.Core.run, hc] at h
  cases hs : step s with
  | next t => exact ⟨t, rfl, by simpa only [hs] using h⟩
  | fault r => rw [hs] at h; cases h
  | refused r => rw [hs] at h; cases h

/-- A bounded wait ends with CTRL's turn after the other agents' events. -/
theorem WaitBoundedBy.ends {es : List Event} {up : List Label} {rest : List Event} {ans : Answer} {s u : State}
    (h : WaitBoundedBy es up (.ctrl ans :: rest) s) (hrun : Sys2Proof.core.run es.length s = .next u) :
    ∃ t, Sys2Proof.core.run (es.length + 1) s = .next t ∧ t.seq = .issue4 :: up ∧ t.io.events = rest := by
  induction es generalizing s with
  | nil =>
    obtain ⟨t, hst, hseq, hev⟩ := h.ctrl
    exact ⟨t, run_succ_of_step hst 0, hseq, hev⟩
  | cons e es ih =>
    obtain ⟨s', hst, hrun⟩ := step_next_of_run_succ hrun
    obtain ⟨t, ht, hseq, hev⟩ := ih (h.agent hst) hrun
    exact ⟨t, (run_succ_of_step hst _).trans ht, hseq, hev⟩

/-- Settles O58, by induction on the other agents' events. -/
theorem waitEndsWithinItsBound : Obligations.WaitEndsWithinItsBound := by
  intro s u up es rest ans hvalid hseq hstyle hagents hbound hevents hrun
  exact WaitBoundedBy.ends ⟨hvalid, hseq, hstyle, hagents, hbound, hevents⟩ hrun

end Sys2Proof.Machine
end

section
/-! The transfer handles (spec/41_transport_sync.md rule R129; spec/10_state.md rule R17): a handle is held exactly
while an accepted transfer of its direction is waited for. -/

namespace Sys2Proof.Machine

/-- Neither handle is held. -/
def State.released (s : State) : Prop := s.regs.rxh = false ∧ s.regs.txh = false

/-- CTRL is at no label from `ISSUE.3` to `ISSUE.4`. -/
def OutsideTransfer (q : List Label) : Prop :=
  ∀ l ∈ q.head?, l = .issue1 ∨ l = .issue2 ∨ l.isTransport = false

theorem outsideTransfer_nil : OutsideTransfer [] := nofun

theorem outsideTransfer_cons {l : Label} (h : l = .issue1 ∨ l = .issue2 ∨ l.isTransport = false) (up : List Label) :
    OutsideTransfer (l :: up) := by
  rintro _ ⟨⟩
  exact h

/-- There the handles must be released (R129). -/
theorem handlesOk_iff_released {s : State} (h : OutsideTransfer s.seq) : HandlesOk s ↔ s.released := by
  have hout (st) : inAsync st s = false := by
    unfold inAsync
    split
    case h_5 => rfl
    all_goals
      rename_i hs
      simp [hs, OutsideTransfer, Label.isTransport] at h
  rw [HandlesOk, hout, hout]
  rfl

/-- Every operation ends with both handles released (R201, R202). -/
theorem handlesOk_complete (e : Err) (g : BitVec 4) (p : Bool) (s : State) : HandlesOk (complete e g p s) :=
  (handlesOk_iff_released outsideTransfer_nil).2 ⟨rfl, rfl⟩

theorem handlesOk_raise (e : Err) (s : State) : HandlesOk (raise e s) := handlesOk_complete _ _ _ _

theorem HandlesOk.of_eq {s t : State} (h : HandlesOk s) (hr : t.regs.rxh = s.regs.rxh) (hx : t.regs.txh = s.regs.txh)
    (ha : ∀ st, inAsync st t = inAsync st s) : HandlesOk t := by
  rw [HandlesOk] at *
  rwa [hr, hx, ha, ha]

theorem inAsync_congr {s t : State} (hq : t.seq = s.seq) (harg : t.work.arg = s.work.arg) (st : Style) :
    inAsync st t = inAsync st s := by
  simp only [inAsync, hq, harg]

/-! ### Return (R11) -/

/-- A return holds no handle that was released. -/
theorem returnTo_released {s : State} (up : List Label) (h : s.released) : (returnTo up s).released := by
  induction up with
  | nil => exact h
  | cons l up ih =>
    cases l with
    | wren2 => exact ih
    | in7 | in13 => simp only [returnTo]; split; exacts [h, ⟨rfl, rfl⟩]
    | su2 | rs2 => exact ⟨rfl, rfl⟩
    | _ => exact h

/-- Only `WaitFor` returns into a transfer (R127). -/
theorem returnTo_outsideTransfer {op : BitVec 4} {x : Label} {up : List Label} (s : State)
    (h : legalSeq op (x :: up) = true) (hx : x.sub ≠ some .wait) : OutsideTransfer (returnTo up s).seq := by
  induction up generalizing x with
  | nil => exact outsideTransfer_nil
  | cons l up ih =>
    obtain ⟨⟨b, hb, hcall⟩, hleg⟩ := legal_cons_cons_iff.1 h
    by_cases hw : l = .wren2
    · subst hw
      exact ih hleg nofun
    have hne : l ≠ .issue3 := by
      rintro rfl
      exact hx (hb.trans hcall.symm)
    obtain ⟨-, -, -, hsucc⟩ := succ_of_calls (l := l) (by simp [hcall])
    rcases returnTo_cons_seq up s hw with hq | hq <;> rw [hq]
    · exact outsideTransfer_nil
    · exact outsideTransfer_cons (.inr (.inr (hsucc.resolve_right fun h => hne h.1))) up

section Ctrl

variable {s t : State} {l : Label} {up : List Label}

/-- A return from a subroutine other than `WaitFor`, with the handles released. -/
theorem handlesOk_return (hc : ControlOk s) (hs : s.seq = l :: up) (hl : l.sub ≠ some .wait) (ht : t.released) :
    HandlesOk (returnTo up t) :=
  (handlesOk_iff_released (returnTo_outsideTransfer t (hs ▸ hc.1) hl)).2 (returnTo_released up ht)

/-- With the handles released CTRL may be at any label outside a transfer. -/
theorem handlesOk_at (hr : t.released) (hq : t.seq = l :: up)
    (hl : l = .issue1 ∨ l = .issue2 ∨ l.isTransport = false) : HandlesOk t :=
  (handlesOk_iff_released (hq ▸ outsideTransfer_cons hl up)).2 hr

/-! ### The labels of `Issue` and `WaitFor` (R127, R129, R131) -/

theorem issueSend_handles (hc : ControlOk s) (hr : s.released) (hs : s.seq = .issue1 :: up) (k : Kind) (a n : Word) :
    HandlesOk (issueSend k a n up s) := by
  unfold issueSend
  split
  · exact handlesOk_raise _ _
  · split
    · exact handlesOk_return hc hs nofun hr
    · exact handlesOk_at hr rfl (.inr (.inl rfl))

/-- `ISSUE.2`: an accepted array transfer takes its handle. -/
theorem dataStep_handles (hc : ControlOk s) (hr : s.released) (hs : s.seq = .issue2 :: up) :
    HandlesOk (dataStep up s) := by
  unfold dataStep
  split
  next => unfold issueRxb; split; exacts [handlesOk_raise _ _, handlesOk_return hc hs nofun hr]
  next => unfold issueTxb; split; exacts [handlesOk_raise _ _, handlesOk_return hc hs nofun hr]
  next hst =>
    unfold issueRxa
    split
    · exact handlesOk_raise _ _
    · simp only [HandlesOk, inAsync, record_regs, record_work, hst]
      exact ⟨rfl, hr.2⟩
  next hst =>
    unfold issueTxa
    split
    · exact handlesOk_raise _ _
    · simp only [HandlesOk, inAsync, record_regs, record_work, hst]
      exact ⟨hr.1, rfl⟩
  next => exact handlesOk_at hr hs (.inr (.inl rfl))

/-- `WaitFor` is called by `ISSUE.3` alone (R127). -/
theorem caller_of_wait2 {op : BitVec 4} (h : legalSeq op (.wait2 :: up) = true) : ∃ up', up = .issue3 :: up' := by
  cases up with
  | nil => simp [legalSeq, Label.instr] at h
  | cons m up =>
    obtain ⟨⟨b, hb, hm⟩, -⟩ := legal_cons_cons_iff.1 h
    obtain rfl : Sub.wait = b := by simpa [Label.sub] using hb
    cases m <;> simp [Label.calls] at hm
    exact ⟨up, rfl⟩

/-- `WAIT.2`: the wait goes on or returns to `ISSUE.3`; the handle is held in both cases. -/
theorem waitStep_handles (hc : ControlOk s) (h : HandlesOk s) (hs : s.seq = .wait2 :: up) :
    HandlesOk (waitStep up s) := by
  obtain ⟨up, rfl⟩ := caller_of_wait2 (hs ▸ hc.1)
  have hreturned (t : State) (hr : t.regs.rxh = s.regs.rxh) (hx : t.regs.txh = s.regs.txh)
      (harg : t.work.arg = s.work.arg) : HandlesOk (returnTo (.issue3 :: up) t) :=
    h.of_eq hr hx fun st => by simp only [inAsync, returnTo, Label.succ, hs, harg]
  unfold waitStep
  split
  next =>
    unfold waitRx
    split
    · exact hreturned _ rfl rfl rfl
    · split
      exacts [hreturned _ rfl rfl rfl, h]
  next =>
    unfold waitTx
    split
    · exact hreturned _ rfl rfl rfl
    · split
      exacts [hreturned _ rfl rfl rfl, h]
  next => exact h

/-- `ISSUE.4`: the handle held is the one released. -/
theorem releaseStep_handles (hc : ControlOk s) (h : HandlesOk s) (hs : s.seq = .issue4 :: up) :
    HandlesOk (releaseStep up s) := by
  obtain ⟨hr, hx⟩ := h
  unfold releaseStep issueEnd
  split
  next hst =>
    have htx : s.regs.txh = false := by rw [hx, inAsync, hs]; simp [hst]
    split
    exacts [handlesOk_raise _ _, handlesOk_return hc hs nofun ⟨rfl, htx⟩]
  next hst =>
    have hrx : s.regs.rxh = false := by rw [hr, inAsync, hs]; simp [hst]
    split
    exacts [handlesOk_raise _ _, handlesOk_return hc hs nofun ⟨hrx, rfl⟩]
  next => exact ⟨hr, hx⟩

/-! ### Every label, and the whole step -/

/-- A labelled step outside `Issue` and `WaitFor` touches no handle but to end the operation. -/
theorem micro_handles_of_not_transport (hc : ControlOk s) (hr : s.released) (hs : s.seq = l :: up)
    (hl : l.isTransport = false) : HandlesOk (micro s) := by
  have hstay : HandlesOk s := handlesOk_at hr hs (.inr (.inr hl))
  cases l <;> simp only [micro, hs]
  case issue1 | issue2 | issue3 | issue4 | wait1 | wait2 => cases hl
  case start1 =>
    rcases startStep_cases s with ⟨e, he⟩ | ⟨m, he, hm⟩ <;> rw [he]
    · exact handlesOk_raise _ _
    · exact handlesOk_at hr rfl (.inr (.inr (not_transport_of_instr hm)))
  case in1 =>
    unfold initReset
    split
    exacts [handlesOk_raise _ _, handlesOk_at hr rfl (.inr (.inr rfl))]
  case in14 | gi1 | rd3 | wr6 | eb4 | ec4 | gst2 | le2 | ll2 => exact handlesOk_complete _ _ _ _
  case su2 | rs2 =>
    split
    exacts [handlesOk_at hr rfl (.inl rfl), handlesOk_complete _ _ _ _]
  case rd1 => split <;> exact handlesOk_at hr rfl (.inr (.inr rfl))
  case wr1 => unfold writeFirst; split <;> exact handlesOk_at hr rfl (.inr (.inr rfl))
  case wr5 =>
    unfold writeAdvance
    dsimp only
    split <;> exact handlesOk_at hr rfl (.inr (.inr rfl))
  case poll1 =>
    split
    · split
      exacts [handlesOk_at hr rfl (.inr (.inr rfl)), hstay]
    · exact hstay
  case poll3 =>
    unfold pollTest
    split
    · exact handlesOk_return hc hs nofun hr
    · split
      exacts [handlesOk_raise _ _, handlesOk_at hr rfl (.inr (.inr rfl))]
  case gs3 => exact handlesOk_return hc hs nofun hr
  case in2 | in6 | in12 | wr4 | eb3 | ec3 | wren2 | in4 | in10 | wr2 | eb1 | ec1 | gst1 | su1 | rs1 =>
    exact handlesOk_at hr rfl (.inr (.inr rfl))
  all_goals exact handlesOk_at hr rfl (.inl rfl)

/-- CTRL's labelled step, label by label. -/
theorem micro_handles (hc : ControlOk s) (h : HandlesOk s) : HandlesOk (micro s) := by
  cases hs : s.seq with
  | nil => simpa only [micro, hs] using h
  | cons l up =>
    have hreleased (hl : l = .issue1 ∨ l = .issue2 ∨ l.isTransport = false) : s.released :=
      (handlesOk_iff_released (hs ▸ outsideTransfer_cons hl up)).1 h
    by_cases hl : l.isTransport = false
    · exact micro_handles_of_not_transport hc (hreleased (.inr (.inr hl))) hs hl
    cases l <;> simp only [micro, hs]
    case issue1 => exact issueSend_handles hc (hreleased (.inl rfl)) hs _ _ _
    case issue2 => exact dataStep_handles hc (hreleased (.inr (.inl rfl))) hs
    case issue3 | wait1 => exact h.of_eq rfl rfl fun st => by simp [inAsync, hs]
    case issue4 => exact releaseStep_handles hc h hs
    case wait2 => exact waitStep_handles hc h hs
    all_goals exact absurd rfl hl

end Ctrl

/-- The other agents touch no handle; reset releases both (R225), and an operation starts with both released. -/
theorem agentStep_handles {e : Event} {s t : State} (h : HandlesOk s) (hst : agentStep e s = .next t) :
    HandlesOk t := by
  rcases agentStep_block_cases hst with ⟨-, rfl⟩ | ⟨-, rfl⟩ | ⟨v, hs, rfl⟩ | ⟨-, hkept⟩
  · exact h.of_eq (by simp) (by simp) (inAsync_congr (by simp) (by simp [tick_work]))
  · exact ⟨rfl, rfl⟩
  · have hr : s.released := (handlesOk_iff_released (hs ▸ outsideTransfer_nil)).1 h
    exact handlesOk_at hr rfl (.inr (.inr rfl))
  · exact h.of_eq hkept.rxh hkept.txh (inAsync_congr hkept.seq (by rw [hkept.work]))

/-- Taking the event off the schedule leaves the handles. -/
theorem takeEvent_handles {s : State} (h : HandlesOk s) (e : Event) (rest : List Event) :
    HandlesOk (s.takeEvent e rest) :=
  h.of_eq (by simp) (by simp) (inAsync_congr (takeEvent_seq s e rest) (by rw [takeEvent_work]))

/-- Settles O49: CTRL's labelled step and every agent's step keep the handles; while idle both are released. -/
theorem handlesKept : Obligations.HandlesKept := by
  intro s t hc h hst
  have ht : HandlesOk t := by
    rcases step_micro hc hst with rfl | ⟨_, rest, -, -, rfl⟩ | ⟨_, rest, -, -, rfl⟩ | ⟨e, rest, -, -, ha⟩
    · exact h
    · exact takeEvent_handles h _ _
    · exact micro_handles (takeEvent_control hc _ _) (takeEvent_handles h _ _)
    · exact agentStep_handles (takeEvent_handles h _ _) ha
  exact ⟨ht, fun hidle => (handlesOk_iff_released (hidle ▸ outsideTransfer_nil)).1 ht⟩

end Sys2Proof.Machine
end

section
/-! The Status Poller (spec/42_status_poller.md): the labels of `PollUntil` and `WREN` inside the operations that poll
(rules R142, R144, R146), the status flags and the classification of the chip (rules R140, R141). -/

namespace Sys2Proof.Machine

/-! ### The labels of `PollUntil` and `WREN` (R142, R144, R146) -/

/-- A label that calls `PollUntil` or `WREN`, other than `WREN.2`, has no line left after the call: the return goes to
the label after it (R11, R144). -/
theorem returnTo_poll_or_wren {l : Label} (h : l.calls = some .poll ∨ l.calls = some .wren) (hne : l ≠ .wren2)
    (up : List Label) (s : State) : returnTo (l :: up) s = s.at (l.succ :: up) := by
  cases l with
  | in2 | in6 | in12 | wr4 | eb3 | ec3 | in4 | in10 | wr2 | eb1 | ec1 => rfl
  | wren2 => exact absurd rfl hne
  | _ => simp [Label.calls] at h

/-- `WREN.2` returns in the step in which its poll does (R146, log 4). -/
theorem returnTo_wren2 (up : List Label) (s : State) : returnTo (.wren2 :: up) s = returnTo up s := rfl

/-- The poll's test in the words of the statements (R142). -/
theorem pollMatches_iff (v mask want : Byte) : pollMatches v mask want = true ↔ v &&& mask = want := beq_iff_eq

section Labels

variable {i : Instr} (hi : i ∈ [Instr.init, .write, .eraseBlock, .eraseChip]) (s : State) (up : List Label)

include hi

/-- The four operations that poll leave the labels of `PollUntil` and `WREN` to the shared step. -/
theorem exec_at_poll_or_wren {l : Label} (hl : l.sub = some .poll ∨ l.sub = some .wren) :
    exec i (s.at (l :: up)) = pollWrenStep (s.at (l :: up)) := by
  simp only [List.mem_cons, List.not_mem_nil, or_false] at hi
  cases l with
  | poll1 | poll2 | poll3 | wren1 | wren2 => rcases hi with rfl | rfl | rfl | rfl <;> rfl
  | _ => simp [Label.sub] at hl

/-- `POLL.1` loads the arguments of its caller. -/
theorem exec_at_poll1 {l : Label} {args : Byte × Byte × Word} (h : pollArgs s.cfg l = some args) :
    exec i (s.at (.poll1 :: l :: up))
      = .next (({ s with
          work := { s.work with pmask := args.1, pmatch := args.2.1, tmr := args.2.2 } } : State).at
            (.poll2 :: l :: up)) := by
  rw [exec_at_poll_or_wren hi s _ (.inl rfl)]
  simp only [pollWrenStep, pollStep, at_seq, at_cfg, h]
  rfl

theorem exec_at_poll2 : exec i (s.at (.poll2 :: up)) = .next (s.issuing (.poll2 :: up) .rdStatus 0 0 0) :=
  exec_at_poll_or_wren hi s up (.inl rfl)

theorem exec_at_poll3 : exec i (s.at (.poll3 :: up)) = .next (pollTest up (s.at (.poll3 :: up))) :=
  exec_at_poll_or_wren hi s up (.inl rfl)

/-- `POLL.3` with a matching byte returns, whatever the timer. -/
theorem exec_at_poll3_match (h : s.work.regbuf.b0 &&& s.work.pmask = s.work.pmatch) :
    exec i (s.at (.poll3 :: up)) = .next (returnTo up s) := by
  rw [exec_at_poll3 hi, pollTest, at_work, if_pos ((pollMatches_iff ..).2 h), returnTo_at]

/-- `POLL.3` without a match: TimeoutError if the timer has expired, else another read. -/
theorem exec_at_poll3_no_match (h : s.work.regbuf.b0 &&& s.work.pmask ≠ s.work.pmatch) :
    exec i (s.at (.poll3 :: up))
      = .next (if s.work.tmr = 0 then s.endedWith 2 s.work.stage.toNat 0 else s.at (.poll2 :: up)) := by
  rw [exec_at_poll3 hi, pollTest, at_work, if_neg (mt (pollMatches_iff ..).1 h), raise_eq_endedWith]
  rfl

theorem exec_at_wren1 : exec i (s.at (.wren1 :: up)) = .next (s.issuing (.wren1 :: up) .writeEnable 0 0 0) :=
  exec_at_poll_or_wren hi s up (.inr rfl)

theorem exec_at_wren2 : exec i (s.at (.wren2 :: up)) = .next (s.at (.poll1 :: .wren2 :: up)) :=
  exec_at_poll_or_wren hi s up (.inr rfl)

end Labels

/-- Settles O34: the callers' rows are those of `pollArgs`, and each caller goes to its next label. -/
theorem pollUntilSteps : Obligations.PollUntilSteps := by
  intro i hi s up
  refine ⟨fun x hx => ?arguments, exec_at_poll2 hi s up, fun hmatch x hx => ?returns, exec_at_poll3_no_match hi s up⟩
  case arguments =>
    have hargs : pollArgs s.cfg x.1 = some x.2 := by
      revert x
      simp [pollArgs]
    exact exec_at_poll1 hi s up hargs
  case returns =>
    have hcaller : x.1.calls = some .poll ∧ x.1 ≠ .wren2 ∧ x.1.succ = x.2 := by
      revert x
      decide
    obtain ⟨hcalls, hne, hsucc⟩ := hcaller
    rw [exec_at_poll3_match hi s _ hmatch, returnTo_poll_or_wren (.inl hcalls) hne, hsucc]

/-- Settles O35: the poll's return passes through `WREN.2` to the caller of `WREN`. -/
theorem writeEnableSteps : Obligations.WriteEnableSteps := by
  intro i hi s up
  refine ⟨exec_at_wren1 hi s up, exec_at_wren2 hi s up, fun hmatch x hx => ?_⟩
  have hcaller : x.1.calls = some .wren ∧ x.1 ≠ .wren2 ∧ x.1.succ = x.2 := by
    revert x
    decide
  obtain ⟨hcalls, hne, hsucc⟩ := hcaller
  rw [exec_at_poll3_match hi s _ hmatch, returnTo_wren2, returnTo_poll_or_wren (.inr hcalls) hne, hsucc]

/-! ### The flags and the class of the chip (R140, R141) -/

/-- Bit `i` of the flags is the `i`-th of the six tests (R140). -/
theorem getLsbD_statusFlags (c : Config) (sr sec : Byte) (i : Nat) :
    (statusFlags c sr sec).getLsbD i =
      ([anyBit sr c.srWip, anyBit sr c.srWel, anyBit sec c.secPfail, anyBit sec c.secEfail, anyBit sec c.secPsusp,
        anyBit sec c.secEsusp][i]?).getD false := by
  match i with
  | 0 | 1 | 2 | 3 | 4 | 5 =>
    simp only [statusFlags, BitVec.getLsbD_append, BitVec.getLsbD_ofBool]
    rfl
  | i + 6 => exact BitVec.getLsbD_of_ge _ _ (by omega)

theorem classify_failed {sf : BitVec 6} (h : sf.getLsbD 2 = true ∨ sf.getLsbD 3 = true) : classify sf = .failed :=
  if_pos (Bool.or_eq_true_iff.2 h)

theorem classify_not_failed {sf : BitVec 6} (hp : sf.getLsbD 2 = false) (he : sf.getLsbD 3 = false) :
    classify sf = if sf.getLsbD 4 || sf.getLsbD 5 then .suspended else if sf.getLsbD 0 then .busy else .ready :=
  if_neg (by rw [hp, he]; decide)

/-- Settles O36: the six bits, then the tests of `classify` in their order. -/
theorem flagsAndClass : Obligations.FlagsAndClass := by
  refine ⟨fun c sr sec => ?flags, fun sf => ⟨classify_failed, ?suspended, ?other⟩⟩
  case flags => exact ⟨getLsbD_statusFlags c sr sec 0, getLsbD_statusFlags c sr sec 1, getLsbD_statusFlags c sr sec 2,
    getLsbD_statusFlags c sr sec 3, getLsbD_statusFlags c sr sec 4, getLsbD_statusFlags c sr sec 5⟩
  case suspended =>
    rintro ⟨hp, he, hsusp⟩
    rw [classify_not_failed hp he, if_pos (Bool.or_eq_true_iff.2 hsusp)]
  case other =>
    rintro ⟨hp, he, hps, hes⟩
    rw [classify_not_failed hp he, if_neg (by rw [hps, hes]; decide)]

end Sys2Proof.Machine
end

section
/-! The chunk arithmetic of the Page-Boundary Write Splitter (spec/43_write_splitter.md rules R156, R158): every chunk
fits its page and the range (rule R160), and the chunks cover the range (rule R161). -/

namespace Sys2Proof.Machine

/-! ### One chunk (R156, R160) -/

/-- A chunk of `len` bytes at offset `off` of a write of `n` bytes at `a`: it stays inside one page and inside the
range, and reaches the end of its page unless it is the last. -/
structure ChunkFits (c : Config) (a n off len : Nat) : Prop where
  nonempty : 1 ≤ len
  page     : (a + off) % c.pageSize + len ≤ c.pageSize
  rest     : off + len ≤ n
  full     : off + len < n → (a + off) % c.pageSize + len = c.pageSize

section Fits

variable {c : Config} {a n off len : Nat}

theorem chunkFits_first (hp : 1 ≤ c.pageSize) (hn : n ≠ 0) : ChunkFits c a n 0 (firstChunk c a n) := by
  have hmod : a % c.pageSize < c.pageSize := Nat.mod_lt _ hp
  constructor <;> simp only [firstChunk, Nat.add_zero] <;> omega

/-- A chunk that is not the last ends at a page boundary. -/
theorem ChunkFits.next_aligned (h : ChunkFits c a n off len) (hlast : off + len ≠ n) :
    (a + (off + len)) % c.pageSize = 0 := by
  have hfull := h.full (Nat.lt_of_le_of_ne h.rest hlast)
  have hdiv := Nat.div_add_mod (a + off) c.pageSize
  have hend : a + (off + len) = c.pageSize * ((a + off) / c.pageSize + 1) := by
    rw [Nat.mul_add_one]
    omega
  rw [hend, Nat.mul_mod_right]

theorem ChunkFits.next (hp : 1 ≤ c.pageSize) (h : ChunkFits c a n off len) (hlast : off + len ≠ n) :
    ChunkFits c a n (off + len) (nextChunk c (n - (off + len))) := by
  have halign := h.next_aligned hlast
  have hrest := h.rest
  constructor <;> simp only [nextChunk, halign] <;> omega

/-- The last byte of a chunk is on the page of its first. -/
theorem ChunkFits.same_page (h : ChunkFits c a n off len) :
    (a + off) / c.pageSize = (a + off + len - 1) / c.pageSize := by
  obtain ⟨hne, hpage, -, -⟩ := h
  have hdiv := Nat.div_add_mod (a + off) c.pageSize
  have hend : a + off + len - 1 = c.pageSize * ((a + off) / c.pageSize) + ((a + off) % c.pageSize + len - 1) := by omega
  rw [hend, Nat.mul_add_div (by omega), Nat.div_eq_of_lt (a := (a + off) % c.pageSize + len - 1) (by omega),
    Nat.add_zero]

end Fits

/-! ### The chunk list (R158) -/

section Lists

variable {c : Config} {a n off len : Nat}

theorem chunksFrom_done (fuel : Nat) : chunksFrom c a n fuel n len = [] := by
  cases fuel <;> simp [chunksFrom]

theorem chunksFrom_succ (fuel : Nat) (h : off ≠ n) :
    chunksFrom c a n (fuel + 1) off len
      = ⟨a + off, off, len⟩ :: chunksFrom c a n fuel (off + len) (nextChunk c (n - (off + len))) := if_neg h

/-- Induction along the loop of R157: the write is done, or a fitting chunk is followed by the rest of the loop. -/
theorem chunksFrom_induction (hp : 1 ≤ c.pageSize) {motive : Nat → Nat → List Chunk → Prop}
    (done : ∀ len, motive n len [])
    (step : ∀ off len rest, off < n → ChunkFits c a n off len →
      motive (off + len) (nextChunk c (n - (off + len))) rest → motive off len (⟨a + off, off, len⟩ :: rest))
    {fuel : Nat} (hfuel : n - off ≤ fuel) (hoff : off ≤ n) (hfits : off ≠ n → ChunkFits c a n off len) :
    motive off len (chunksFrom c a n fuel off len) := by
  induction fuel generalizing off len with
  | zero =>
    obtain rfl : off = n := by omega
    exact done len
  | succ fuel ih =>
    by_cases hn : off = n
    · subst hn
      rw [chunksFrom_done]
      exact done len
    · have hf := hfits hn
      have hne := hf.nonempty
      rw [chunksFrom_succ fuel hn]
      exact step off len _ (by omega) hf (ih (by omega) hf.rest (hf.next hp))

/-- The induction for the whole list. -/
theorem chunks_induction (hp : 1 ≤ c.pageSize) {motive : Nat → Nat → List Chunk → Prop}
    (done : ∀ len, motive n len [])
    (step : ∀ off len rest, off < n → ChunkFits c a n off len →
      motive (off + len) (nextChunk c (n - (off + len))) rest → motive off len (⟨a + off, off, len⟩ :: rest)) :
    motive 0 (firstChunk c a n) (chunks c a n) :=
  chunksFrom_induction hp done step (by omega) (Nat.zero_le n) fun h => chunkFits_first hp (Ne.symm h)

/-- What holds of the `i`-th chunk of a list of `k` chunks (R158, R160): it fits, a later one starts on a page, and only
the last ends the range. -/
structure ChunkInList (c : Config) (a n i k : Nat) (x : Chunk) : Prop where
  addr    : x.addr = a + x.off
  fits    : ChunkFits c a n x.off x.len
  aligned : 1 ≤ i → x.addr % c.pageSize = 0
  notLast : i + 1 < k → x.off + x.len < n

/-- Every chunk is where it should be. The induction also says where the list starts, which aligns the chunk after. -/
theorem chunkInList_of_getElem? (hp : 1 ≤ c.pageSize) {i : Nat} {x : Chunk} (h : (chunks c a n)[i]? = some x) :
    ChunkInList c a n i (chunks c a n).length x := by
  have hall := chunks_induction (c := c) (a := a) (n := n) hp
    (motive := fun off _ l => (l ≠ [] → off < n)
      ∧ ∀ i x, l[i]? = some x → ChunkInList c a n i l.length x ∧ (i = 0 → x.off = off))
    (fun _ => ⟨fun h => absurd rfl h, nofun⟩) ?_
  · exact (hall.2 i x h).1
  rintro off len rest hoff hfits ⟨hstart, hrest⟩
  refine ⟨fun _ => hoff, fun i x hx => ?_⟩
  cases i with
  | zero =>
    obtain rfl : ⟨a + off, off, len⟩ = x := by simpa using hx
    have hlast : 0 + 1 < rest.length + 1 → off + len < n := fun h =>
      hstart (List.ne_nil_of_length_pos (by omega))
    exact ⟨⟨rfl, hfits, nofun, hlast⟩, fun _ => rfl⟩
  | succ i =>
    rw [List.getElem?_cons_succ] at hx
    obtain ⟨⟨haddr, hfit, halign, hlast⟩, hfirst⟩ := hrest i x hx
    have hnext : off + len < n := hstart fun hnil => by simp [hnil] at hx
    refine ⟨⟨haddr, hfit, fun _ => ?_, fun h => hlast (by simpa using h)⟩, nofun⟩
    cases i with
    | zero => rw [haddr, hfirst rfl, hfits.next_aligned (Nat.ne_of_lt hnext)]
    | succ i => exact halign (Nat.le_add_left 1 i)

/-- The lengths add up to the length of the write (R161). -/
theorem chunks_sum_len (hp : 1 ≤ c.pageSize) : ((chunks c a n).map Chunk.len).sum = n := by
  have h := chunks_induction (c := c) (a := a) (n := n) hp
    (motive := fun off _ l => off + (l.map Chunk.len).sum = n) (fun _ => rfl)
    fun off len rest _ _ ih => by rw [List.map_cons, List.sum_cons, ← Nat.add_assoc, ih]
  rwa [Nat.zero_add] at h

/-- Each offset is the sum of the lengths before it (R158, R161). -/
theorem chunks_off (hp : 1 ≤ c.pageSize) {i : Nat} {x : Chunk} (h : (chunks c a n)[i]? = some x) :
    x.off = (((chunks c a n).take i).map Chunk.len).sum := by
  have hall := chunks_induction (c := c) (a := a) (n := n) hp
    (motive := fun off _ l => ∀ i x, l[i]? = some x → x.off = off + ((l.take i).map Chunk.len).sum) (fun _ => nofun) ?_
  · rw [hall i x h, Nat.zero_add]
  intro off len rest _ _ ih i x hx
  cases i with
  | zero =>
    obtain rfl : ⟨a + off, off, len⟩ = x := by simpa using hx
    rfl
  | succ i =>
    rw [ih i x (by simpa using hx), List.take_succ_cons, List.map_cons, List.sum_cons, Nat.add_assoc]

/-- The number of pages that `m` bytes touch when the first is `r` bytes into a page (R161). -/
def pagesTouched (c : Config) (r m : Nat) : Nat := if m = 0 then 0 else (r + m + c.pageSize - 1) / c.pageSize

/-- A part inside one page touches one. -/
theorem pagesTouched_one {r m : Nat} (hm : 1 ≤ m) (h : r + m ≤ c.pageSize) : pagesTouched c r m = 1 := by
  rw [pagesTouched, if_neg (by omega)]
  exact Nat.div_eq_of_lt_le (by omega) (by omega)

/-- A part that fills its page touches one page more than the rest. -/
theorem pagesTouched_add {r l m : Nat} (hp : 1 ≤ c.pageSize) (h : r + l = c.pageSize) (hm : m ≠ 0) :
    pagesTouched c r (l + m) = pagesTouched c 0 m + 1 := by
  have hsum : r + (l + m) + c.pageSize - 1 = 0 + m + c.pageSize - 1 + c.pageSize := by omega
  rw [pagesTouched, pagesTouched, if_neg (by omega), if_neg hm, hsum, Nat.add_div_right _ hp]

/-- There is one chunk per page touched (R161). -/
theorem length_chunks (hp : 1 ≤ c.pageSize) : (chunks c a n).length = pagesTouched c (a % c.pageSize) n := by
  refine chunks_induction (c := c) (a := a) (n := n) hp
    (motive := fun off _ l => l.length = pagesTouched c ((a + off) % c.pageSize) (n - off)) ?_ ?_
  · intro len
    rw [Nat.sub_self]
    rfl
  intro off len rest hoff hfits ih
  rw [List.length_cons, ih]
  by_cases hlast : off + len = n
  · subst hlast
    rw [Nat.sub_self, Nat.add_sub_cancel_left, pagesTouched_one hfits.nonempty hfits.page]
    rfl
  · have hrest := hfits.rest
    have hfull := hfits.full (by omega)
    have hsplit : n - off = len + (n - (off + len)) := by omega
    rw [hfits.next_aligned hlast, hsplit, pagesTouched_add hp hfull (by omega)]

/-- The offsets of the chunks' bytes, chunk by chunk, are those of the write (R161). -/
theorem chunks_flatMap_range' (hp : 1 ≤ c.pageSize) :
    (chunks c a n).flatMap (fun x => List.range' x.off x.len) = List.range n := by
  have h := chunks_induction (c := c) (a := a) (n := n) hp
    (motive := fun off _ l => l.flatMap (fun x => List.range' x.off x.len) = List.range' off (n - off)) ?_ ?_
  · rw [h, Nat.sub_zero, List.range_eq_range']
  · intro len
    rw [Nat.sub_self]
    rfl
  intro off len rest _ hfits ih
  have hrest := hfits.rest
  have hsplit : n - off = len + (n - (off + len)) := by omega
  rw [List.flatMap_cons, ih, List.range'_append_1, hsplit]

end Lists

/-- Settles O45: each chunk fits, and one that is neither first nor last starts on a page and fills it. -/
theorem chunksStayInsidePages : Obligations.ChunksStayInsidePages := by
  intro c a n i x hp hx
  obtain ⟨haddr, hfits, halign, hlast⟩ := chunkInList_of_getElem? hp hx
  refine ⟨hfits.nonempty, haddr ▸ hfits.same_page, halign, fun hi hk => ?_⟩
  have hfull := hfits.full (hlast hk)
  rwa [← haddr, halign hi, Nat.zero_add] at hfull

/-- Settles O46: the sum, the offsets and the number of chunks, each by the induction along the loop. -/
theorem chunksCoverExactly : Obligations.ChunksCoverExactly := fun _ _ _ hp =>
  ⟨chunks_sum_len hp, fun _ _ hx => ⟨(chunkInList_of_getElem? hp hx).addr, chunks_off hp hx⟩, length_chunks hp⟩

end Sys2Proof.Machine
end

section
/-! WRITE (spec/43_write_splitter.md rule R157): its labelled steps, and its loop variables as an invariant of every
step, from which no page-program command leaves its page (rules R159, R160). -/

namespace Sys2Proof.Machine

theorem at_self {s : State} {q : List Label} (h : s.seq = q) : s.at q = s := by
  subst h
  rfl

/-! ### The labelled steps (R157) -/

/-- The assignments of `WR.1`. -/
def State.begun (s : State) : State :=
  { s with
    regs.progress := 0
    work := { s.work with
      cur := s.work.a, off := 0
      chunk := BitVec.ofNat 32 (firstChunk s.cfg s.work.a.toNat s.work.n.toNat) } }

/-- The assignments of `WR.5`. -/
def State.advanced (s : State) : State :=
  { s with
    regs.progress := s.work.off + s.work.chunk
    work := { s.work with
      cur := s.work.cur + s.work.chunk, off := s.work.off + s.work.chunk
      chunk := BitVec.ofNat 32 (nextChunk s.cfg (s.work.n.toNat - (s.work.off + s.work.chunk).toNat)) } }

theorem writeFirst_at (s : State) :
    writeFirst (s.at [.wr1]) = s.begun.at (if s.work.n = 0 then [.wr6] else [.wr2]) := by
  by_cases h : s.work.n = 0
  · rw [if_pos h]
    exact if_pos h
  · rw [if_neg h]
    exact if_neg h

theorem writeAdvance_at (s : State) :
    writeAdvance (s.at [.wr5])
      = s.advanced.at (if s.work.off + s.work.chunk = s.work.n then [.wr6] else [.wr2]) := by
  by_cases h : s.work.off + s.work.chunk = s.work.n
  · rw [if_pos h]
    exact if_pos h
  · rw [if_neg h]
    exact if_neg h

/-- Settles O29, label by label. -/
theorem writeSteps : Obligations.WriteSteps := fun s =>
  ⟨congrArg _ (writeFirst_at s), rfl, rfl, rfl, congrArg _ (writeAdvance_at s),
    congrArg _ (complete_eq_endedWith .ok 0 false _)⟩

/-! ### The loop variables (R157, R159) -/

/-- The loop variables in the words of the chunk arithmetic. -/
theorem chunkOk_iff (s : State) :
    ChunkOk s ↔ s.work.a.toNat + s.work.n.toNat ≤ s.cfg.capacity
      ∧ s.work.cur.toNat = s.work.a.toNat + s.work.off.toNat
      ∧ ChunkFits s.cfg s.work.a.toNat s.work.n.toNat s.work.off.toNat s.work.chunk.toNat
      ∧ s.regs.progress = s.work.off := by
  constructor
  · rintro ⟨hrange, hcur, hne, hpage, hrest, hfull, hprog⟩
    rw [hcur] at hpage hfull
    exact ⟨hrange, hcur, ⟨hne, hpage, hrest, hfull⟩, hprog⟩
  · rintro ⟨hrange, hcur, ⟨hne, hpage, hrest, hfull⟩, hprog⟩
    rw [← hcur] at hpage hfull
    exact ⟨hrange, hcur, hne, hpage, hrest, hfull, hprog⟩

/-- The command of a chunk stays inside its page and the capacity (R159, R160). -/
theorem ChunkOk.insideOnePage {s : State} (h : ChunkOk s) :
    InsideOnePage s.cfg s.work.cur.toNat s.work.chunk.toNat := by
  obtain ⟨hrange, hcur, hfits, -⟩ := (chunkOk_iff s).1 h
  have hrest := hfits.rest
  rw [hcur]
  exact ⟨hfits.nonempty, hfits.same_page, by omega⟩

theorem toNat_firstChunk (c : Config) (a : Nat) (n : Word) :
    (BitVec.ofNat 32 (firstChunk c a n.toNat)).toNat = firstChunk c a n.toNat :=
  Nat.mod_eq_of_lt (Nat.lt_of_le_of_lt (Nat.min_le_right _ _) n.isLt)

theorem toNat_nextChunk (c : Config) (n : Word) (off : Nat) :
    (BitVec.ofNat 32 (nextChunk c (n.toNat - off))).toNat = nextChunk c (n.toNat - off) :=
  Nat.mod_eq_of_lt (Nat.lt_of_le_of_lt ((Nat.min_le_right _ _).trans (Nat.sub_le _ _)) n.isLt)

/-- `off + chunk` does not wrap (R159). -/
theorem ChunkOk.toNat_off_add_chunk {s : State} (h : ChunkOk s) :
    (s.work.off + s.work.chunk).toNat = s.work.off.toNat + s.work.chunk.toNat :=
  BitVec.toNat_add_of_lt (Nat.lt_of_le_of_lt h.rest s.work.n.isLt)

/-- `WR.1` begins the loop with the first chunk. -/
theorem chunkOk_begun {s : State} (hp : 1 ≤ s.cfg.pageSize)
    (hrange : s.work.a.toNat + s.work.n.toNat ≤ s.cfg.capacity) (hn : s.work.n ≠ 0) (q : List Label) :
    ChunkOk (s.begun.at q) := by
  have hpos : s.work.n.toNat ≠ 0 := fun h => hn (BitVec.eq_of_toNat_eq h)
  refine (chunkOk_iff _).2 ⟨hrange, rfl, ?_, rfl⟩
  simp only [at_work, at_cfg, State.begun, toNat_firstChunk]
  exact chunkFits_first hp hpos

/-- `WR.5` goes on with the next chunk. -/
theorem ChunkOk.advanced {s : State} (hp : 1 ≤ s.cfg.pageSize) (hcap : s.cfg.capacity ≤ 2 ^ 32) (h : ChunkOk s)
    (hlast : s.work.off + s.work.chunk ≠ s.work.n) (q : List Label) : ChunkOk (s.advanced.at q) := by
  obtain ⟨hrange, hcur, hfits, -⟩ := (chunkOk_iff s).1 h
  have hoff := h.toNat_off_add_chunk
  have hne : s.work.off.toNat + s.work.chunk.toNat ≠ s.work.n.toNat := fun he =>
    hlast (BitVec.eq_of_toNat_eq (hoff.trans he))
  have hrest := hfits.rest
  have hnext : (s.work.cur + s.work.chunk).toNat = s.work.cur.toNat + s.work.chunk.toNat :=
    BitVec.toNat_add_of_lt (by omega)
  refine (chunkOk_iff _).2 ⟨hrange, ?_, ?_, rfl⟩
  · simp only [at_work, State.advanced, hnext, hoff]
    omega
  · simp only [at_work, at_cfg, State.advanced, toNat_nextChunk, hoff]
    exact hfits.next hp hne

/-! ### What a step leaves of them -/

/-- What the loop works on: the configuration, the operands, the loop variables and `PROGRESS`. -/
structure LoopVars where
  cfg      : Config
  a        : Word
  n        : Word
  p        : Word
  cur      : Word
  off      : Word
  chunk    : Word
  progress : Word

def State.loopVars (s : State) : LoopVars :=
  ⟨s.cfg, s.work.a, s.work.n, s.work.p, s.work.cur, s.work.off, s.work.chunk, s.regs.progress⟩

/-- `t` has the loop variables of `s`. -/
def LoopKept (s t : State) : Prop := t.loopVars = s.loopVars

section Kept

variable {s t u : State}

theorem LoopKept.cfg (h : LoopKept s t) : t.cfg = s.cfg := congrArg LoopVars.cfg h
theorem LoopKept.a (h : LoopKept s t) : t.work.a = s.work.a := congrArg LoopVars.a h
theorem LoopKept.n (h : LoopKept s t) : t.work.n = s.work.n := congrArg LoopVars.n h
theorem LoopKept.p (h : LoopKept s t) : t.work.p = s.work.p := congrArg LoopVars.p h
theorem LoopKept.cur (h : LoopKept s t) : t.work.cur = s.work.cur := congrArg LoopVars.cur h
theorem LoopKept.off (h : LoopKept s t) : t.work.off = s.work.off := congrArg LoopVars.off h
theorem LoopKept.chunk (h : LoopKept s t) : t.work.chunk = s.work.chunk := congrArg LoopVars.chunk h
theorem LoopKept.progress (h : LoopKept s t) : t.regs.progress = s.regs.progress := congrArg LoopVars.progress h

theorem LoopKept.trans (h : LoopKept s t) (h' : LoopKept t u) : LoopKept s u := Eq.trans h' h

theorem LoopKept.chunkOk (hk : LoopKept s t) (h : ChunkOk s) : ChunkOk t := by
  rw [chunkOk_iff] at *
  rwa [hk.cfg, hk.a, hk.n, hk.cur, hk.off, hk.chunk, hk.progress]

end Kept

/-- A return leaves them (R11). -/
theorem returnTo_loopKept (up : List Label) (s : State) : LoopKept s (returnTo up s) := by
  induction up with
  | nil => rfl
  | cons l up ih =>
    cases l with
    | wren2 => exact ih
    | in7 | in13 => simp only [returnTo]; split <;> rfl
    | _ => rfl

/-! ### Where the invariant asks something -/

/-- The outermost label of `r` is `WR.1`, or in the loop, only if that of `q` is. -/
def LoopPlace (q r : List Label) : Prop :=
  (r.getLast? = some .wr1 → q.getLast? = some .wr1)
    ∧ ∀ m ∈ r.getLast?, m.inLoop = true → ∃ l ∈ q.getLast?, l.inLoop = true

theorem loopPlace_of_eq {q r : List Label} (h : r.getLast? = q.getLast?) : LoopPlace q r :=
  ⟨fun h1 => h ▸ h1, fun m hm hl => ⟨m, h ▸ hm, hl⟩⟩

theorem LoopPlace.trans {q r u : List Label} (h : LoopPlace q r) (h' : LoopPlace r u) : LoopPlace q u :=
  ⟨fun h1 => h.1 (h'.1 h1), fun m hm hl => by
    obtain ⟨x, hx, hxl⟩ := h'.2 m hm hl
    exact h.2 x hx hxl⟩

theorem loopPlace_nil (q : List Label) : LoopPlace q [] := ⟨nofun, nofun⟩

/-- A call, or the way back from it, leaves the outermost label. -/
theorem loopPlace_call (x l : Label) (up : List Label) : LoopPlace (l :: up) (x :: l :: up) :=
  loopPlace_of_eq List.getLast?_cons_cons

theorem loopPlace_pop (x l : Label) (up : List Label) : LoopPlace (x :: l :: up) (l :: up) :=
  loopPlace_of_eq List.getLast?_cons_cons.symm

/-- A move of the innermost label, which may be the outermost. -/
theorem loopPlace_swap {l m : Label} (up : List Label) (h1 : m ≠ .wr1) (hl : m.inLoop = true → l.inLoop = true) :
    LoopPlace (l :: up) (m :: up) := by
  cases up with
  | nil => exact ⟨fun h => absurd (by simpa using h) h1, fun x hx hxl => ⟨l, rfl, hl (by simp_all)⟩⟩
  | cons x up => exact loopPlace_of_eq (by rw [List.getLast?_cons_cons, List.getLast?_cons_cons])

theorem instr_of_inLoop {l : Label} (h : l.inLoop = true) : l.instr = some .write := by
  cases l <;> simp [Label.inLoop] at h <;> rfl

theorem issueCaller_of_not_transport {l : Label} (h : l.isTransport = false) (up : List Label) :
    issueCaller (l :: up) = none := by
  obtain ⟨hi, hw⟩ := not_issue_wait_of_not_transport h
  cases up <;> simp [issueCaller, hi, hw]

/-- A return stays in the loop it was called from, inside no `Issue` but the one that called `WaitFor` (R11, R127). -/
theorem returnTo_loopPlace {op : BitVec 4} {x : Label} {up : List Label} (s : State)
    (h : legalSeq op (x :: up) = true) :
    LoopPlace (x :: up) (returnTo up s).seq
      ∧ ∀ c, issueCaller (returnTo up s).seq = some c → issueCaller (x :: up) = some c := by
  induction up generalizing x with
  | nil => exact ⟨loopPlace_nil _, nofun⟩
  | cons l up ih =>
    obtain ⟨⟨b, hx, hcall⟩, hleg⟩ := legal_cons_cons_iff.1 h
    by_cases hw : l = .wren2
    · subst hw
      obtain ⟨hplace, hcaller⟩ := ih hleg
      exact ⟨(loopPlace_pop ..).trans hplace, fun c hc => absurd (hcaller c hc)
        (by rw [issueCaller_of_not_transport rfl]; simp)⟩
    have hsucc : l.succ ≠ .wr1 ∧ (l.succ.inLoop = true → l.inLoop = true) := by
      cases l <;> simp [Label.calls] at hcall <;> decide
    obtain ⟨-, hsub, -, hnt⟩ := succ_of_calls (l := l) (by simp [hcall])
    rcases returnTo_cons_seq up s hw with hq | hq <;> rw [hq]
    · exact ⟨loopPlace_nil _, nofun⟩
    refine ⟨(loopPlace_pop ..).trans (loopPlace_swap up hsucc.1 hsucc.2), fun c hc => ?_⟩
    rcases hnt with hnt | ⟨rfl, -⟩
    · simp [issueCaller_of_not_transport hnt] at hc
    · obtain rfl : Sub.wait = b := by simpa [Label.calls] using hcall
      rw [issueCaller_swap hsub] at hc
      simpa [issueCaller, hx] using hc

section Moves

variable {s t : State} {l m : Label} {up : List Label}

/-- CTRL moves where the invariant asks no more than it did, with the loop variables and any pending program command
kept. -/
theorem WriteOk.move (h : WriteOk s) (hk : LoopKept s t) (hplace : LoopPlace s.seq t.seq)
    (hcaller : issueCaller t.seq = some .wr3 → issueCaller s.seq = some .wr3 ∧ t.work.arg = s.work.arg) :
    WriteOk t := by
  obtain ⟨hfirst, hloop, harg⟩ := h
  refine ⟨fun h1 => ?_, fun x hx hxl => ?_, fun hc => ?_⟩
  · rw [hk.a, hk.n, hk.cfg]
    exact hfirst (hplace.1 h1)
  · obtain ⟨y, hy, hyl⟩ := hplace.2 x hx hxl
    exact hk.chunkOk (hloop y hy hyl)
  · obtain ⟨hc, ht⟩ := hcaller hc
    rw [ht, harg hc, hk.cur, hk.chunk, hk.p, hk.off]

/-- At a label of an operation the invariant is about the loop variables alone. -/
theorem writeOk_at (ht : t.seq = [l]) (hfirst : l = .wr1 → t.work.a.toNat + t.work.n.toNat ≤ t.cfg.capacity)
    (hloop : l.inLoop = true → ChunkOk t) : WriteOk t := by
  simp only [WriteOk, ht, issueCaller, List.getLast?_singleton, Option.mem_def, Option.some.injEq, forall_eq',
    reduceCtorEq, false_imp_iff, and_true]
  exact ⟨hfirst, hloop⟩

/-- CTRL moves to another label at the same level: inside `Issue` with the pending command kept, or to a label outside
`Issue` and `WaitFor`. -/
theorem WriteOk.swap (h : WriteOk s) (hk : LoopKept s t) (hs : s.seq = l :: up) (ht : t.seq = m :: up)
    (hm : m.instr ≠ some .write) (hcaller : m.isTransport = false ∨ m.sub = l.sub ∧ t.work.arg = s.work.arg) :
    WriteOk t := by
  refine h.move hk (hs ▸ ht ▸ loopPlace_swap up ?_ ?_) fun hc => ?_
  · rintro rfl; exact hm rfl
  · exact fun hin => absurd (instr_of_inLoop hin) hm
  · rcases hcaller with hm | ⟨hsub, harg⟩
    · rw [ht, issueCaller_of_not_transport hm] at hc
      cases hc
    · rw [ht, issueCaller_swap hsub] at hc
      exact ⟨hs ▸ hc, harg⟩

/-- CTRL calls a subroutine other than `Issue` and `WaitFor`. -/
theorem WriteOk.call (h : WriteOk s) (hs : s.seq = l :: up) (hm : m.isTransport = false) : WriteOk (call m s) := by
  refine h.move rfl ?_ fun hc => ?_
  · rw [call_seq, hs]
    exact loopPlace_call ..
  · rw [call_seq, issueCaller_of_not_transport hm] at hc
    cases hc

/-- CTRL calls `Issue` from another label than `WR.3`. -/
theorem WriteOk.callIssue {k : Kind} {a n p : Word} (h : WriteOk s) (hs : s.seq = l :: up) (hl : l ≠ .wr3)
    (hk : LoopKept s t) (ht : t.seq = l :: up) : WriteOk (callIssue k a n p t) := by
  refine h.move hk ?_ fun hc => ?_
  · rw [callIssue_seq, hs, ht]
    exact loopPlace_call ..
  · rw [callIssue_seq, ht] at hc
    exact absurd (by simpa [issueCaller, Label.sub] using hc) hl

/-- CTRL returns from a subroutine. -/
theorem WriteOk.returns (h : WriteOk s) (hc : ControlOk s) (hs : s.seq = l :: up) (hk : LoopKept s t)
    (harg : t.work.arg = s.work.arg) : WriteOk (returnTo up t) := by
  obtain ⟨hplace, hcaller⟩ := returnTo_loopPlace t (hs ▸ hc.1)
  rw [← hs] at hplace hcaller
  exact h.move (hk.trans (returnTo_loopKept up t)) hplace fun h3 =>
    ⟨hcaller _ h3, (returnTo_op_arg up t).2.trans harg⟩

/-- A label of no subroutine stands alone (R11). -/
theorem alone_of_legal (hc : ControlOk s) (hs : s.seq = l :: up) (hl : l.sub = none) : s.seq = [l] := by
  rcases legal_head (hs ▸ hc.1) with ⟨rfl, -⟩ | ⟨-, hsub⟩
  · exact hs
  · exact absurd hl hsub

end Moves

/-! ### CTRL's labelled steps keep it -/

section Ctrl

variable {s : State} {up : List Label}

/-- START.1 enters WRITE with the range checked (R166, R171). -/
theorem startStep_writeOk (hc : ControlOk s) (hs : s.seq = .start1 :: up) : WriteOk (startStep s) := by
  have halone := alone_of_legal hc hs rfl
  by_cases hw : decodeOp s.work.op = .write
  · have hstart : startStep s = startChecked (rangeOk s.cfg s.work.a s.work.n) .wr1 s := by simp only [startStep, hw]
    rw [hstart]
    rcases startChecked_cases (rangeOk s.cfg s.work.a s.work.n) .wr1 s with ⟨-, h⟩ | ⟨-, -, h⟩ | ⟨-, hr, h⟩ <;> rw [h]
    · exact writeOk_of_idle rfl
    · exact writeOk_of_idle rfl
    · exact writeOk_at (l := .wr1) (by simp [halone]) (fun _ => of_decide_eq_true hr) nofun
  · rcases startStep_cases s with ⟨e, h⟩ | ⟨l, h, hl⟩ <;> rw [h]
    · exact writeOk_of_idle rfl
    · have hne : l.instr ≠ some .write := fun he => hw (Option.some.inj (hl.symm.trans he))
      refine writeOk_at (l := l) (by simp [halone]) ?_ ?_
      · rintro rfl
        exact absurd rfl hne
      · exact fun hin => absurd (instr_of_inLoop hin) hne

/-- `WR.1`: the loop begins, or there is nothing to write. -/
theorem writeFirst_writeOk (hp : 1 ≤ s.cfg.pageSize) (hc : ControlOk s) (h : WriteOk s) (hs : s.seq = .wr1 :: up) :
    WriteOk (writeFirst s) := by
  have halone := alone_of_legal hc hs rfl
  have hrange := h.1 (by rw [halone]; rfl)
  rw [← at_self halone, writeFirst_at]
  split
  · exact writeOk_at rfl nofun nofun
  next hn => exact writeOk_at rfl nofun fun _ => chunkOk_begun hp hrange hn _

/-- `WR.5`: the loop goes on, or has come to its end. -/
theorem writeAdvance_writeOk (hp : 1 ≤ s.cfg.pageSize) (hcap : s.cfg.capacity ≤ 2 ^ 32) (hc : ControlOk s)
    (h : WriteOk s) (hs : s.seq = .wr5 :: up) : WriteOk (writeAdvance s) := by
  have halone := alone_of_legal hc hs rfl
  have hchunk := h.2.1 .wr5 (by rw [halone]; rfl) rfl
  rw [← at_self halone, writeAdvance_at]
  split
  · exact writeOk_at rfl nofun nofun
  next hn => exact writeOk_at rfl nofun fun _ => hchunk.advanced hp hcap hn _

/-- `WR.3` issues the command of the chunk. -/
theorem callProgram_writeOk (hc : ControlOk s) (h : WriteOk s) (hs : s.seq = .wr3 :: up) :
    WriteOk (callIssue .pageProgram s.work.cur s.work.chunk (s.work.p + s.work.off) s) := by
  have halone := alone_of_legal hc hs rfl
  have hchunk : ChunkOk s := h.2.1 .wr3 (by rw [halone]; rfl) rfl
  have hkept : LoopKept s (callIssue .pageProgram s.work.cur s.work.chunk (s.work.p + s.work.off) s) := rfl
  refine ⟨fun h1 => ?_, fun _ _ _ => hkept.chunkOk hchunk, fun _ => rfl⟩
  rw [callIssue_seq, halone] at h1
  cases h1

/-- `ISSUE.2` returns, ends the operation, or goes on to `ISSUE.3`. -/
theorem dataStep_writeOk (hc : ControlOk s) (h : WriteOk s) (hs : s.seq = .issue2 :: up) : WriteOk (dataStep up s) := by
  unfold dataStep
  split
  next =>
    unfold issueRxb
    split
    exacts [writeOk_of_idle rfl, h.returns hc hs rfl rfl]
  next =>
    unfold issueTxb
    split
    exacts [writeOk_of_idle rfl, h.returns hc hs rfl rfl]
  next =>
    unfold issueRxa
    split
    exacts [writeOk_of_idle rfl, h.swap rfl hs rfl nofun (.inr ⟨rfl, rfl⟩)]
  next =>
    unfold issueTxa
    split
    exacts [writeOk_of_idle rfl, h.swap rfl hs rfl nofun (.inr ⟨rfl, rfl⟩)]
  next => exact h

/-- The labels of `Issue` and `WaitFor` (R127, R131). -/
theorem micro_writeOk_of_transport {l : Label} (hc : ControlOk s) (h : WriteOk s) (hs : s.seq = l :: up)
    (hl : l.isTransport = true) : WriteOk (micro s) := by
  cases l <;> simp only [micro, hs]
  case issue1 =>
    unfold issueSend
    split
    · exact writeOk_of_idle rfl
    · split
      exacts [h.returns hc hs rfl rfl, h.swap rfl hs rfl nofun (.inr ⟨rfl, rfl⟩)]
  case issue2 => exact dataStep_writeOk hc h hs
  case issue3 =>
    refine h.move rfl ?_ fun hcaller => ?_
    · rw [call_seq, hs]
      exact loopPlace_call ..
    · rw [call_seq, hs] at hcaller
      exact ⟨hs ▸ hcaller, rfl⟩
  case issue4 =>
    unfold releaseStep issueEnd
    repeat' split
    exacts [writeOk_of_idle rfl, h.returns hc hs rfl rfl, writeOk_of_idle rfl, h.returns hc hs rfl rfl, h]
  case wait1 => exact h.swap (m := .wait2) rfl hs (by simp) nofun (.inr ⟨rfl, rfl⟩)
  case wait2 =>
    unfold waitStep waitRx waitTx
    repeat' split
    exacts [h.returns hc hs rfl rfl, h.returns hc hs rfl rfl, h, h.returns hc hs rfl rfl, h.returns hc hs rfl rfl, h, h]
  all_goals cases hl

/-- The other labels. -/
theorem micro_writeOk_of_not_transport {l : Label} (hp : 1 ≤ s.cfg.pageSize) (hcap : s.cfg.capacity ≤ 2 ^ 32)
    (hc : ControlOk s) (h : WriteOk s) (hs : s.seq = l :: up) (hl : l.isTransport = false) : WriteOk (micro s) := by
  have hself : LoopKept s s := rfl
  have hgoto (m : Label) (hm : m.instr ≠ some .write) (hnt : m.isTransport = false) (t : State) (hk : LoopKept s t)
      (ht : t.seq = l :: up) : WriteOk (goto m t) :=
    h.swap (m := m) hk hs (by simp [ht]) hm (.inl hnt)
  cases l <;> simp only [micro, hs]
  case issue1 | issue2 | issue3 | issue4 | wait1 | wait2 => cases hl
  case start1 => exact startStep_writeOk hc hs
  case wr1 => exact writeFirst_writeOk hp hc h hs
  case wr3 => exact callProgram_writeOk hc h hs
  case wr5 => exact writeAdvance_writeOk hp hcap hc h hs
  case in1 =>
    unfold initReset
    split
    exacts [writeOk_of_idle rfl, hgoto .in2 nofun rfl _ rfl hs]
  case in2 | in6 | in12 | wr4 | eb3 | ec3 | wren2 | in4 | in10 | wr2 | eb1 | ec1 | gst1 | su1 | rs1 =>
    exact h.call hs rfl
  case in14 | gi1 | rd3 | wr6 | eb4 | ec4 | gst2 | le2 | ll2 => exact writeOk_of_idle rfl
  case rd1 =>
    split
    exacts [hgoto .rd3 nofun rfl _ hself hs, hgoto .rd2 nofun rfl _ hself hs]
  case su2 | rs2 =>
    split
    exacts [h.callIssue hs nofun hself hs, writeOk_of_idle rfl]
  case poll1 =>
    split
    · split
      exacts [hgoto .poll2 nofun rfl _ rfl hs, h]
    · exact h
  case poll3 =>
    unfold pollTest
    split
    · exact h.returns hc hs hself rfl
    · split
      exacts [writeOk_of_idle rfl, hgoto .poll2 nofun rfl _ hself hs]
  case gs3 => exact h.returns hc hs rfl rfl
  case in3 | in8 => exact h.callIssue hs nofun rfl rfl
  case in5 | in7 | in9 | in11 | in13 | rd2 | eb2 | ec2 | le1 | ll1 | poll2 | wren1 | gs1 | gs2 =>
    exact h.callIssue hs nofun rfl hs

/-- CTRL's labelled step keeps the loop variables right (R157). -/
theorem micro_writeOk (hp : 1 ≤ s.cfg.pageSize) (hcap : s.cfg.capacity ≤ 2 ^ 32) (hc : ControlOk s) (h : WriteOk s) :
    WriteOk (micro s) := by
  cases hs : s.seq with
  | nil => simpa only [micro, hs] using h
  | cons l up =>
    cases hl : l.isTransport with
    | true => exact micro_writeOk_of_transport hc h hs hl
    | false => exact micro_writeOk_of_not_transport hp hcap hc h hs hl

end Ctrl

/-! ### What CTRL shows on the link (R78) -/

/-- `t` shows at most one primitive more than `s`; a command is the pending one, sent at `ISSUE.1`. The schedule is
left. -/
def ShowsOne (s t : State) : Prop :=
  t.io.events = s.io.events ∧
    (t.io.trace = s.io.trace
      ∨ ∃ e, t.io.trace = e :: s.io.trace
        ∧ ∀ k cmd ok, e = .send k cmd ok →
          s.seq.head? = some .issue1 ∧ k = s.work.arg.kind
            ∧ cmd = encodeCmd s.cfg s.work.arg.kind s.work.arg.a s.work.arg.n)

theorem showsOne_of_io {s t : State} (h : t.io = s.io) : ShowsOne s t := by
  rw [ShowsOne, h]
  exact ⟨rfl, .inl rfl⟩

theorem ShowsOne.congr {s t u : State} (h : ShowsOne s t) (hio : u.io = t.io) : ShowsOne s u := by
  rwa [ShowsOne, hio]

theorem ShowsOne.raise {s t : State} (h : ShowsOne s t) (e : Err) : ShowsOne s (raise e t) := h.congr (raise_io e t)

theorem ShowsOne.returnTo {s t : State} (h : ShowsOne s t) (up : List Label) : ShowsOne s (returnTo up t) :=
  h.congr (returnTo_io up t)

/-- A primitive other than a command. -/
theorem showsOne_record {s t : State} {e : LinkCall} (he : ∀ k cmd ok, e ≠ .send k cmd ok) (ht : t.io = s.io) :
    ShowsOne s (record e t) := by
  rw [ShowsOne, record_io, ht]
  exact ⟨rfl, .inr ⟨e, rfl, fun k cmd ok h => absurd h (he k cmd ok)⟩⟩

section Shows

variable {s : State} {up : List Label}

theorem issueSend_shows (hs : s.seq = .issue1 :: up) :
    ShowsOne s (issueSend s.work.arg.kind s.work.arg.a s.work.arg.n up s) := by
  have hsent (ok : Bool) (t : State) (ht : t.io = s.io) : ShowsOne s (record
      (.send s.work.arg.kind (encodeCmd s.cfg s.work.arg.kind s.work.arg.a s.work.arg.n) ok) t) := by
    rw [ShowsOne, record_io, ht]
    refine ⟨rfl, .inr ⟨_, rfl, fun k cmd ok he => ?_⟩⟩
    cases he
    exact ⟨by rw [hs]; rfl, rfl, rfl⟩
  unfold issueSend
  dsimp only
  split
  · exact (hsent _ _ (by rfl)).raise _
  · split
    · exact (hsent _ _ (by rfl)).returnTo _
    · exact (hsent _ _ (by rfl)).congr rfl

theorem dataStep_shows (up : List Label) (s : State) : ShowsOne s (dataStep up s) := by
  unfold dataStep
  split
  next =>
    unfold issueRxb
    split
    exacts [(showsOne_record (by simp) (by rfl)).raise _, (showsOne_record (by simp) (by rfl)).returnTo _]
  next =>
    unfold issueTxb
    dsimp only
    split
    exacts [(showsOne_record (by simp) (by rfl)).raise _, (showsOne_record (by simp) (by rfl)).returnTo _]
  next =>
    unfold issueRxa
    dsimp only
    split <;> exact (showsOne_record (t := { s with regs.rxh := true }) (by simp) (by rfl)).congr rfl
  next =>
    unfold issueTxa
    dsimp only
    split <;> exact (showsOne_record (t := { s with regs.txh := true }) (by simp) (by rfl)).congr rfl
  next => exact showsOne_of_io rfl

theorem micro_shows (s : State) : ShowsOne s (micro s) := by
  cases hs : s.seq with
  | nil => exact showsOne_of_io (by simp only [micro, hs])
  | cons l up =>
    cases l <;> simp only [micro, hs]
    case start1 => rcases startStep_cases s with ⟨e, h⟩ | ⟨l, h, -⟩ <;> rw [h] <;> exact showsOne_of_io rfl
    case in1 =>
      unfold initReset
      dsimp only
      split
      exacts [(showsOne_record (by simp) (by rfl)).raise _, (showsOne_record (by simp) (by rfl)).congr (goto_io _ _)]
    case gi1 => exact ⟨rfl, .inl rfl⟩
    case wr1 => unfold writeFirst; split <;> exact showsOne_of_io rfl
    case wr5 => unfold writeAdvance; dsimp only; split <;> exact showsOne_of_io rfl
    case rd1 | su2 | rs2 => split <;> exact showsOne_of_io rfl
    case issue1 => exact issueSend_shows hs
    case issue2 => exact dataStep_shows up s
    case issue4 =>
      unfold releaseStep issueEnd
      repeat' split
      all_goals exact showsOne_of_io (by simp)
    case wait2 =>
      unfold waitStep waitRx waitTx
      repeat' split
      all_goals exact showsOne_of_io (by simp)
    case poll1 =>
      split
      · split <;> exact showsOne_of_io rfl
      · exact showsOne_of_io rfl
    case poll3 =>
      unfold pollTest
      repeat' split
      all_goals exact showsOne_of_io (by simp)
    case gs3 => exact showsOne_of_io (by simp)
    all_goals exact showsOne_of_io rfl

/-- Page programs are issued from `WR.3` alone. -/
theorem eq_wr3_of_kind {l : Label} (h : l.kind = some .pageProgram) : l = .wr3 := by
  cases l <;> simp [Label.kind] at h ⊢

/-- The command CTRL sends at `ISSUE.1` for a page program is that of the chunk (R157, R160). -/
theorem pending_program_insideOnePage (hc : ControlOk s) (h : WriteOk s) (hs : s.seq.head? = some .issue1)
    (hk : s.work.arg.kind = .pageProgram) : InsideOnePage s.cfg s.work.arg.a.toNat s.work.arg.n.toNat := by
  obtain ⟨hleg, hkind, -⟩ := hc
  obtain ⟨-, hloop, harg⟩ := h
  match hq : s.seq, hs with
  | [.issue1], _ => simp [hq, legalSeq, Label.instr] at hleg
  | .issue1 :: l :: up, _ =>
    have hcaller : issueCaller s.seq = some l := by rw [hq]; rfl
    have hl : l.kind = some .pageProgram := hk ▸ hkind l hcaller
    obtain rfl := eq_wr3_of_kind hl
    have halone : up = [] := by
      rw [hq] at hleg
      rcases legal_head (legal_cons_cons_iff.1 hleg).2 with ⟨hup, -⟩ | ⟨-, hsub⟩
      · exact hup
      · exact absurd rfl hsub
    have hchunk : ChunkOk s := hloop .wr3 (by rw [hq, halone]; rfl) rfl
    rw [harg hcaller]
    exact hchunk.insideOnePage

/-- CTRL's labelled step sends no page-program command that leaves its page. -/
theorem micro_programs (hc : ControlOk s) (h : WriteOk s) (hp : ProgramsInsidePages s) :
    ProgramsInsidePages (micro s) := by
  obtain ⟨-, htrace⟩ := micro_shows s
  intro cmd ok hmem
  rw [(micro_space s).1]
  rcases htrace with htrace | ⟨e, htrace, hsent⟩ <;> rw [htrace] at hmem
  · exact hp cmd ok hmem
  · rcases List.mem_cons.1 hmem with he | hmem
    · obtain ⟨hs, hk, rfl⟩ := hsent _ _ _ he.symm
      rw [← hk]
      exact pending_program_insideOnePage hc h hs hk.symm
    · exact hp cmd ok hmem

end Shows

/-! ### The other agents and the whole step -/

/-- An agent other than CTRL calls no primitive; it leaves `PROGRESS` but to start an operation or to reset. -/
theorem agentStep_shows {e : Event} {s t : State} (h : agentStep e s = .next t) :
    t.io.trace = s.io.trace
      ∧ (t.regs.progress = s.regs.progress ∨ (∃ v, t = start v s) ∨ t = resetBlock s) := by
  cases e with
  | hostWrite addr w v =>
    simp only [agentStep] at h
    split at h <;> cases h
    next i _ =>
      rcases regWrite_cases i v s with h | ⟨-, -, h⟩ | ⟨-, -, h⟩ | ⟨-, -, h⟩ | ⟨-, -, h⟩ <;> rw [h]
      case inr.inl => exact ⟨rfl, .inr (.inl ⟨v, rfl⟩)⟩
      all_goals exact ⟨rfl, .inl rfl⟩
  | hostRead | hbWrite | hbRead =>
    simp only [agentStep] at h
    split at h <;> cases h
    exact ⟨rfl, .inl rfl⟩
  | tick => cases h; exact ⟨by simp, .inl (by simp)⟩
  | cbRx done =>
    obtain ⟨hregs, -, -, -, -, -, hio⟩ := completeRx_frame h
    exact ⟨by rw [hio], .inl (by rw [hregs]; rfl)⟩
  | cbTx done =>
    obtain ⟨hregs, -, -, -, -, -, hio⟩ := completeTx_frame h
    exact ⟨by rw [hio], .inl (by rw [hregs]; rfl)⟩
  | linkStore k i b => obtain rfl | ⟨_, _, _, _, _, rfl⟩ := storeEarly_cases h <;> exact ⟨rfl, .inl rfl⟩
  | linkFetch k i => obtain rfl | ⟨_, _, _, _, rfl⟩ := fetchEarly_cases h <;> exact ⟨rfl, .inl rfl⟩
  | linkResidue i b => obtain rfl | ⟨_, _, _, _, rfl⟩ := residue_cases h <;> exact ⟨rfl, .inl rfl⟩
  | rst => cases h; exact ⟨rfl, .inr (.inr rfl)⟩
  | ctrl | linkDropRx | linkDropTx => cases h; exact ⟨rfl, .inl rfl⟩

/-- The other agents leave the write loop alone, while reset and a start leave WRITE altogether. -/
theorem agentStep_writeOk {e : Event} {s t : State} (h : WriteOk s) (hst : agentStep e s = .next t) : WriteOk t := by
  have hstart (v : Word) : WriteOk (start v s) := writeOk_at (l := .start1) rfl nofun nofun
  rcases (agentStep_shows hst).2 with hprog | ⟨v, rfl⟩ | rfl
  rotate_left
  · exact hstart v
  · exact writeOk_of_idle rfl
  have hcfg := (agentStep_space hst).1
  rcases agentStep_block_cases hst with ⟨-, rfl⟩ | ⟨-, rfl⟩ | ⟨v, -, rfl⟩ | ⟨-, hkept⟩
  · refine h.move ?_ (loopPlace_of_eq (by simp)) fun hc => ⟨by simpa using hc, by simp [tick_work]⟩
    rw [tick_eq]
    rfl
  · exact writeOk_of_idle rfl
  · exact hstart v
  · obtain ⟨hseq, hwork, -, -, -⟩ := hkept
    have hkept : LoopKept s t := by rw [LoopKept, State.loopVars, State.loopVars, hcfg, hwork, hprog]
    exact h.move hkept (loopPlace_of_eq (by rw [hseq])) fun hc => ⟨hseq ▸ hc, by rw [hwork]⟩

theorem agentStep_programs {e : Event} {s t : State} (h : ProgramsInsidePages s) (hst : agentStep e s = .next t) :
    ProgramsInsidePages t := by
  rw [ProgramsInsidePages, (agentStep_shows hst).1, (agentStep_space hst).1]
  exact h

/-- Taking the event off the schedule leaves the loop and the trace. -/
theorem takeEvent_writeOk {s : State} (h : WriteOk s) (e : Event) (rest : List Event) :
    WriteOk (s.takeEvent e rest) := by
  have hkept : LoopKept s (s.takeEvent e rest) := by simp [LoopKept, State.loopVars]
  exact h.move hkept (loopPlace_of_eq (by rw [takeEvent_seq])) fun hc => ⟨by simpa using hc, by simp⟩

theorem takeEvent_programs {s : State} (h : ProgramsInsidePages s) (e : Event) (rest : List Event) :
    ProgramsInsidePages (s.takeEvent e rest) := by
  simpa [ProgramsInsidePages] using h

/-- What the geometry of a valid configuration gives the loop (R6). -/
theorem geometry_of_valid {c : Config} (h : c.valid = true) : 1 ≤ c.pageSize ∧ c.capacity ≤ 2 ^ 32 := by
  simp only [Config.valid, Config.geometryOk, Config.capacityFits, Bool.and_eq_true, decide_eq_true_eq] at h
  obtain ⟨⟨⟨⟨⟨⟨⟨hp, -⟩, -⟩, -⟩, -, hcap⟩, -⟩, -⟩, -⟩ := h
  exact ⟨hp, hcap⟩

/-- Every step keeps the loop variables right, whatever the trace. -/
theorem step_writeOk {s t : State} (hc : ControlOk s) (h : WriteOk s) (hst : step s = .next t) : WriteOk t := by
  obtain ⟨hpage, hcap⟩ := geometry_of_valid (step_cases hst).1
  rcases step_micro hc hst with rfl | ⟨_, rest, -, -, rfl⟩ | ⟨a, rest, -, -, rfl⟩ | ⟨e, rest, -, -, ha⟩
  · exact h
  · exact takeEvent_writeOk h _ _
  · exact micro_writeOk (by simpa using hpage) (by simpa using hcap) (takeEvent_control hc _ _)
      (takeEvent_writeOk h _ _)
  · exact agentStep_writeOk (takeEvent_writeOk h _ _) ha

/-- Settles O53: the loop variables stay right, CTRL sends only commands of chunks, and the other agents send none. -/
theorem programCommandsStayInsidePages : Obligations.ProgramCommandsStayInsidePages := by
  intro s t hc h hp hst
  refine ⟨step_writeOk hc h hst, ?_⟩
  rcases step_micro hc hst with rfl | ⟨_, rest, -, -, rfl⟩ | ⟨a, rest, -, -, rfl⟩ | ⟨e, rest, -, -, ha⟩
  · exact hp
  · exact takeEvent_programs hp _ _
  · exact micro_programs (takeEvent_control hc _ _) (takeEvent_writeOk h _ _) (takeEvent_programs hp _ _)
  · exact agentStep_programs (takeEvent_programs hp _ _) ha

end Sys2Proof.Machine
end

section
/-! A WRITE over a prompt link (spec/43_write_splitter.md rules R157, R158): CTRL's turns through one chunk, and the run
of the whole operation by induction along the chunk list. -/

namespace Sys2Proof.Machine

/-! ### CTRL's turns -/

/-- The event of CTRL taken: the schedule goes on, and the link's answer is `ok` with first byte `b`. -/
def State.answered (s : State) (b : Byte) : State := s.takeEvent (.ok b) s.io.events.tail

/-- CTRL's turn with the link's answer `ok` and first byte `b`. -/
def State.turn (s : State) (b : Byte) : State := micro (s.answered b)

/-- `k` steps lead from `s` to `t`. -/
def Reaches (k : Nat) (s t : State) : Prop := Sys2Proof.core.run k s = .next t

theorem reaches_one {s t : State} (h : step s = .next t) : Reaches 1 s t := run_succ_of_step h 0

theorem Reaches.trans {j k : Nat} {s t u : State} (h : Reaches j s t) (h' : Reaches k t u) : Reaches (j + k) s u := by
  induction j generalizing s with
  | zero => cases h; rwa [Nat.zero_add]
  | succ j ih =>
    obtain ⟨v, hst, hrun⟩ := step_next_of_run_succ h
    rw [Nat.succ_add, Reaches, run_succ_of_step hst]
    exact ih hrun

/-- What every state of a run from an idle block satisfies. -/
structure InRun (s : State) : Prop where
  valid   : s.cfg.valid = true
  control : ControlOk s
  write   : WriteOk s

theorem InRun.step {s t : State} (h : InRun s) (hst : step s = .next t) : InRun t where
  valid := (step_space hst).1 ▸ h.valid
  control := legalSequencerKept s t h.control hst
  write := step_writeOk h.control h.write hst

theorem InRun.reaches {k : Nat} {s t : State} (h : InRun s) (hrun : Reaches k s t) : InRun t := by
  induction k generalizing s with
  | zero => cases hrun; exact h
  | succ k ih =>
    obtain ⟨u, hst, hrun⟩ := step_next_of_run_succ hrun
    exact ih (h.step hst) hrun

/-- An event of CTRL is CTRL's turn, from any legal position. -/
theorem InRun.step_turn {s : State} {b : Byte} {rest : List Event} (h : InRun s) (he : s.io.events = .ok b :: rest) :
    Sys2Proof.Machine.step s = .next (s.turn b) ∧ (s.turn b).io.events = rest := by
  have htail : s.io.events.tail = rest := by rw [he]; rfl
  refine ⟨?_, ?_⟩
  · rw [step_ctrl h.valid he, State.turn, State.answered, htail, ctrlStep]
    cases hs : s.seq with
    | nil =>
      rw [fetch_idle (by simpa using hs)]
      simp only [micro, takeEvent_seq, hs]
      rfl
    | cons l up =>
      have hfetch := fetch_busy (s := s.takeEvent (.ok b) rest) (by simpa using hs)
      rw [Event.ok] at hfetch ⊢
      rw [hfetch]
      exact exec_micro (takeEvent_control h.control _ _) hfetch
  · rw [State.turn, (micro_shows _).1, State.answered, htail]
    rfl

/-- A row of CTRL's turns. -/
theorem InRun.turns {s : State} {bs : List Byte} {rest : List Event} (h : InRun s)
    (he : s.io.events = bs.map Event.ok ++ rest) :
    Reaches bs.length s (bs.foldl State.turn s) ∧ (bs.foldl State.turn s).io.events = rest := by
  induction bs generalizing s with
  | nil => exact ⟨rfl, he⟩
  | cons b bs ih =>
    obtain ⟨hst, hev⟩ := h.step_turn he
    obtain ⟨hrun, hev⟩ := ih (h.step hst) hev
    exact ⟨(run_succ_of_step hst _).trans hrun, hev⟩

/-! ### The turn at each label of a WRITE -/

/-- The pending command replaced: an `Issue` is called (R127, log 5). -/
def State.pending (s : State) (k : Kind) (a n ptr : Word) : State := { s with work.arg := ⟨k, a, n, ptr⟩ }

@[simp] theorem answered_cfg (s : State) (b : Byte) : (s.answered b).cfg = s.cfg := rfl
@[simp] theorem answered_regs (s : State) (b : Byte) : (s.answered b).regs = s.regs := rfl
@[simp] theorem answered_work (s : State) (b : Byte) : (s.answered b).work = s.work := rfl
@[simp] theorem answered_hb (s : State) (b : Byte) : (s.answered b).hb = s.hb := rfl
@[simp] theorem answered_link (s : State) (b : Byte) : (s.answered b).link = s.link := rfl
@[simp] theorem answered_trace (s : State) (b : Byte) : (s.answered b).io.trace = s.io.trace := rfl

@[simp] theorem pending_cfg (k : Kind) (a n ptr : Word) (s : State) : (s.pending k a n ptr).cfg = s.cfg := rfl
@[simp] theorem pending_regs (k : Kind) (a n ptr : Word) (s : State) : (s.pending k a n ptr).regs = s.regs := rfl
@[simp] theorem pending_work (k : Kind) (a n ptr : Word) (s : State) :
    (s.pending k a n ptr).work = { s.work with arg := ⟨k, a, n, ptr⟩ } := rfl
@[simp] theorem pending_hb (k : Kind) (a n ptr : Word) (s : State) : (s.pending k a n ptr).hb = s.hb := rfl
@[simp] theorem pending_link (k : Kind) (a n ptr : Word) (s : State) : (s.pending k a n ptr).link = s.link := rfl
@[simp] theorem pending_io (k : Kind) (a n ptr : Word) (s : State) : (s.pending k a n ptr).io = s.io := rfl

@[simp] theorem sent_cfg (k : Kind) (cmd : Command) (ok : Bool) (s : State) : (s.sent k cmd ok).cfg = s.cfg := rfl
@[simp] theorem sent_regs (k : Kind) (cmd : Command) (ok : Bool) (s : State) : (s.sent k cmd ok).regs = s.regs := rfl
@[simp] theorem sent_work (k : Kind) (cmd : Command) (ok : Bool) (s : State) :
    (s.sent k cmd ok).work = { s.work with cmd := cmd } := rfl
@[simp] theorem sent_hb (k : Kind) (cmd : Command) (ok : Bool) (s : State) : (s.sent k cmd ok).hb = s.hb := rfl
@[simp] theorem sent_link (k : Kind) (cmd : Command) (ok : Bool) (s : State) : (s.sent k cmd ok).link = s.link := rfl
@[simp] theorem sent_trace (k : Kind) (cmd : Command) (ok : Bool) (s : State) :
    (s.sent k cmd ok).io.trace = .send k cmd ok :: s.io.trace := rfl

theorem returnTo_wren1 (up : List Label) (s : State) : returnTo (.wren1 :: up) s = s.at (.wren2 :: up) := rfl

theorem returnTo_wr3 (up : List Label) (s : State) : returnTo (.wr3 :: up) s = s.at (.wr4 :: up) := rfl

section Turn

variable (s : State) (up : List Label) (b : Byte)

theorem turn_wr1 :
    (s.at [.wr1]).turn b = (s.answered b).begun.at (if s.work.n = 0 then [.wr6] else [.wr2]) :=
  writeFirst_at (s.answered b)

theorem turn_wr2 : (s.at [.wr2]).turn b = (s.answered b).at [.wren1, .wr2] := rfl

theorem turn_wr3 :
    (s.at [.wr3]).turn b
      = ((s.answered b).pending .pageProgram s.work.cur s.work.chunk (s.work.p + s.work.off)).at [.issue1, .wr3] := rfl

theorem turn_wr4 : (s.at [.wr4]).turn b = (s.answered b).at [.poll1, .wr4] := rfl

theorem turn_wr5 :
    (s.at [.wr5]).turn b
      = (s.answered b).advanced.at (if s.work.off + s.work.chunk = s.work.n then [.wr6] else [.wr2]) :=
  writeAdvance_at (s.answered b)

theorem turn_wr6 : (s.at [.wr6]).turn b = complete .ok 0 false (s.answered b) := rfl

theorem turn_wren1 :
    (s.at (.wren1 :: up)).turn b = ((s.answered b).pending .writeEnable 0 0 0).at (.issue1 :: .wren1 :: up) := rfl

theorem turn_wren2 : (s.at (.wren2 :: up)).turn b = (s.answered b).at (.poll1 :: .wren2 :: up) := rfl

theorem turn_poll2 :
    (s.at (.poll2 :: up)).turn b = ((s.answered b).pending .rdStatus 0 0 0).at (.issue1 :: .poll2 :: up) := rfl

theorem turn_issue3 : (s.at (.issue3 :: up)).turn b = (s.answered b).at (.wait1 :: .issue3 :: up) := rfl

theorem turn_wait1 :
    (s.at (.wait1 :: up)).turn b
      = ({ s.answered b with work.tmr := s.cfg.tXfer } : State).at (.wait2 :: up) := rfl

end Turn

section Turn

variable {s : State} {up : List Label} {b : Byte}

/-- An initialised block enters WRITE if the range is inside the capacity (R166, R167). -/
theorem turn_start1 (hw : decodeOp s.work.op = .write) (hi : s.regs.inited = true)
    (hr : rangeOk s.cfg s.work.a s.work.n = true) : (s.at [.start1]).turn b = (s.answered b).at [.wr1] := by
  simp only [State.turn, State.answered, micro, takeEvent_seq, at_seq, startStep, takeEvent_work, at_work, hw,
    startChecked, takeEvent_regs, at_regs, hi, takeEvent_cfg, at_cfg, hr, Bool.true_eq_false, if_false]
  rfl

theorem turn_poll1 {l : Label} {args : Byte × Byte × Word} (h : pollArgs s.cfg l = some args) :
    (s.at (.poll1 :: l :: up)).turn b
      = ({ s.answered b with
          work := { s.work with pmask := args.1, pmatch := args.2.1, tmr := args.2.2 } } : State).at
            (.poll2 :: l :: up) := by
  simp only [State.turn, State.answered, micro, takeEvent_seq, takeEvent_cfg, at_seq, at_cfg, h]
  rfl

/-- The poll's byte matches: the poll returns (R142). -/
theorem turn_poll3 (h : s.work.regbuf.b0 &&& s.work.pmask = s.work.pmatch) :
    (s.at (.poll3 :: up)).turn b = returnTo up (s.answered b) := by
  rw [← returnTo_at up (.poll3 :: up)]
  simp only [State.turn, State.answered, micro, takeEvent_seq, at_seq, pollTest, takeEvent_work, at_work,
    (pollMatches_iff ..).2 h, if_true]
  rfl

/-- A command without a data phase is sent, and `Issue` returns. -/
theorem turn_issue1_dataless (hk : s.work.arg.kind.style = .none) :
    (s.at (.issue1 :: up)).turn b
      = returnTo up ((s.answered b).sent s.work.arg.kind
          (encodeCmd s.cfg s.work.arg.kind s.work.arg.a s.work.arg.n) true) := by
  have hans : (s.answered b).io.ans = .ok ⟨b, 0, 0, 0⟩ := rfl
  have hsend := exec_send_dataless hans s.work.arg.kind s.work.arg.a s.work.arg.n up hk
  rw [exec_at_issue1] at hsend
  exact Host.Outcome.next.inj hsend

/-- A command with a data phase is sent. -/
theorem turn_issue1_data (hk : s.work.arg.kind.style ≠ .none) :
    (s.at (.issue1 :: up)).turn b
      = ((s.answered b).sent s.work.arg.kind
          (encodeCmd s.cfg s.work.arg.kind s.work.arg.a s.work.arg.n) true).at (.issue2 :: up) := by
  have hans : (s.answered b).io.ans = .ok ⟨b, 0, 0, 0⟩ := rfl
  have hsend := exec_send_data hans s.work.arg.kind s.work.arg.a s.work.arg.n up hk
  rw [exec_at_issue1] at hsend
  exact Host.Outcome.next.inj hsend

/-- A register read takes the byte into `REGBUF` and returns. -/
theorem turn_issue2_read (hk : s.work.arg.kind.style = .blkRx) :
    (s.at (.issue2 :: up)).turn b
      = returnTo up (({ s.answered b with
          work.regbuf := s.work.regbuf.receive s.work.cmd.dlen.toNat ⟨b, 0, 0, 0⟩ } : State).traced
            (.rxb s.work.cmd.dlen s.cfg.tBlocking
              (some (Bytes4.take ⟨b, 0, 0, 0⟩ s.work.cmd.dlen.toNat)))) := by
  have hans : (s.answered b).io.ans = .ok ⟨b, 0, 0, 0⟩ := rfl
  have hread := exec_register_read hans s.work.arg.kind s.work.arg.a s.work.arg.n up hk
  rw [exec_at_issue2, issueData, hk] at hread
  simp only [State.turn, State.answered, micro, takeEvent_seq, at_seq, dataStep, takeEvent_work, at_work, hk]
  exact Host.Outcome.next.inj hread

/-- An array transmit takes its handle and is in flight. -/
theorem turn_issue2_program (hk : s.work.arg.kind.style = .asyncTx) :
    (s.at (.issue2 :: up)).turn b
      = (({ s.answered b with
          regs.txh := true
          link.tx := s.link.tx ++ [⟨s.work.arg.ptr, s.work.cmd.dlen, []⟩] } : State).traced
            (.txa s.work.arg.ptr s.work.cmd.dlen true)).at (.issue3 :: up) := by
  have hans : (s.answered b).io.ans = .ok ⟨b, 0, 0, 0⟩ := rfl
  have hprog := exec_array_program hans s.work.arg.kind s.work.arg.a s.work.arg.n up hk
  rw [exec_at_issue2, issueData, hk] at hprog
  simp only [State.turn, State.answered, micro, takeEvent_seq, at_seq, dataStep, takeEvent_work, at_work, hk]
  exact Host.Outcome.next.inj hprog

/-- A signalled transmit ends the wait (R131). -/
theorem turn_wait2 (hk : s.work.arg.kind.style = .asyncTx) (hx : s.regs.txsig ≠ 0) :
    (s.at (.wait2 :: .issue3 :: up)).turn b
      = ({ s.answered b with regs.txsig := s.regs.txsig - 1, work.waited := .ok } : State).at (.issue4 :: up) := by
  simp only [State.turn, State.answered, micro, takeEvent_seq, at_seq, waitStep, takeEvent_work, at_work, hk,
    waitTx_issue3, takeEvent_regs, at_regs, if_pos hx]
  rfl

/-- After a wait that has ended with the signal the handle is released, and `Issue` returns (R127). -/
theorem turn_issue4 (hk : s.work.arg.kind.style = .asyncTx) (hw : s.work.waited = .ok) :
    (s.at (.issue4 :: up)).turn b = returnTo up { s.answered b with regs.txh := false } := by
  rw [← returnTo_at up (.issue4 :: up)]
  simp only [State.turn, State.answered, micro, takeEvent_seq, at_seq, releaseStep, takeEvent_work, at_work, hk,
    issueEnd, hw, reduceCtorEq, if_false]
  rfl

end Turn

/-! ### The turns of one chunk (R157) -/

/-- What a WRITE reports and transmits is the same in `t` as in `s`. -/
structure ReportKept (s t : State) : Prop where
  loop     : LoopKept s t
  txsig    : t.regs.txsig = s.regs.txsig
  hb       : t.hb = s.hb
  link     : t.link = s.link
  programs : programs t.io.trace = programs s.io.trace

theorem ReportKept.trans {s t u : State} (h : ReportKept s t) (h' : ReportKept t u) : ReportKept s u :=
  ⟨h.loop.trans h'.loop, h'.txsig.trans h.txsig, h'.hb.trans h.hb, h'.link.trans h.link,
    h'.programs.trans h.programs⟩

/-- A return reports nothing. -/
theorem returnTo_reportKept (up : List Label) (s : State) : ReportKept s (returnTo up s) :=
  ⟨returnTo_loopKept up s, (returnTo_signals up s).2, returnTo_hb up s, returnTo_link up s, by rw [returnTo_io]⟩

theorem reportKept_answered (s : State) (b : Byte) : ReportKept s (s.answered b) :=
  ⟨rfl, rfl, rfl, rfl, rfl⟩

section Phases

variable {s : State} {up : List Label}

/-- A status read of a poll: `POLL.2` and the `Issue` it calls (R142). -/
theorem turns_read (hs : s.seq = .poll2 :: up) (b : Byte) :
    ∃ t, [0, 0, b].foldl State.turn s = t.at (.poll3 :: up) ∧ ReportKept s t
      ∧ t.work.regbuf.b0 = b ∧ t.work.pmask = s.work.pmask ∧ t.work.pmatch = s.work.pmatch := by
  rw [← at_self hs]
  simp only [List.foldl_cons, List.foldl_nil]
  rw [turn_poll2, turn_issue1_data (by simp [Kind.style]), turn_issue2_read (by simp [Kind.style])]
  refine ⟨_, rfl, ⟨by simp [LoopKept, State.loopVars], ?_, ?_, ?_, ?_⟩, rfl, ?_, ?_⟩ <;> simp [programs]

/-- A poll whose first byte matches returns to its caller after one read (R142). -/
theorem turns_poll {l : Label} {args : Byte × Byte × Word} {b : Byte} (hs : s.seq = .poll1 :: l :: up)
    (hargs : pollArgs s.cfg l = some args) (hmatch : b &&& args.1 = args.2.1) :
    ∃ t, [0, 0, 0, b, 0].foldl State.turn s = returnTo (l :: up) t ∧ ReportKept s t := by
  have hload : ReportKept s (s.turn 0) ∧ (s.turn 0).seq = .poll2 :: l :: up ∧ (s.turn 0).work.pmask = args.1
      ∧ (s.turn 0).work.pmatch = args.2.1 := by
    rw [← at_self hs, turn_poll1 hargs]
    refine ⟨⟨by simp [LoopKept, State.loopVars], ?_, ?_, ?_, ?_⟩, ?_, ?_, ?_⟩ <;> simp
  obtain ⟨hkept, hq, hmask, hwant⟩ := hload
  obtain ⟨t, ht, hread, hb, hm, hw⟩ := turns_read hq b
  have htest : t.work.regbuf.b0 &&& t.work.pmask = t.work.pmatch := by rw [hb, hm, hw, hmask, hwant, hmatch]
  refine ⟨t.answered 0, ?_, hkept.trans (hread.trans (reportKept_answered t 0))⟩
  rw [← turn_poll3 htest, ← ht]
  rfl

/-- `WR.2`: the write-enable command and the poll that confirms the latch at the first read (R146). -/
theorem turns_writeEnable (hs : s.seq = [.wr2]) :
    ∃ t, [0, 0, 0, 0, 0, 0, 0, s.cfg.srWel, 0].foldl State.turn s = t ∧ ReportKept s t ∧ t.seq = [.wr3] := by
  have hwren : ReportKept s ([0, 0, 0, 0].foldl State.turn s)
      ∧ ([0, 0, 0, 0].foldl State.turn s).seq = [.poll1, .wren2, .wr2] := by
    rw [← at_self hs]
    simp only [List.foldl_cons, List.foldl_nil]
    rw [turn_wr2, turn_wren1, turn_issue1_dataless (by simp [Kind.style]), returnTo_wren1, turn_wren2]
    refine ⟨⟨by simp [LoopKept, State.loopVars], ?_, ?_, ?_, ?_⟩, rfl⟩ <;> simp [programs]
  obtain ⟨hkept, hq⟩ := hwren
  have hargs : pollArgs ([0, 0, 0, 0].foldl State.turn s).cfg .wren2 = some (s.cfg.srWel, s.cfg.srWel, s.cfg.tCmd) := by
    rw [hkept.loop.cfg]
    rfl
  obtain ⟨t, ht, hpoll⟩ := turns_poll hq hargs (BitVec.and_self (x := s.cfg.srWel))
  exact ⟨returnTo [.wren2, .wr2] t, ht, hkept.trans (hpoll.trans (returnTo_reportKept _ _)), rfl⟩

/-- `WR.3` up to `ISSUE.3`: the command of the chunk is sent, and its transfer is in flight (R127, R157). -/
theorem turns_program (hs : s.seq = [.wr3]) :
    ∃ t, [0, 0, 0].foldl State.turn s = t ∧ t.seq = [.issue3, .wr3] ∧ LoopKept s t ∧ t.regs.txsig = s.regs.txsig
      ∧ t.hb = s.hb ∧ t.link.tx = s.link.tx ++ [⟨s.work.p + s.work.off, s.work.chunk, []⟩]
      ∧ t.link.sent = s.link.sent ∧ t.work.arg.kind = .pageProgram
      ∧ programs t.io.trace
        = (s.work.cur, s.work.p + s.work.off, s.work.chunk) :: programs s.io.trace := by
  rw [← at_self hs]
  simp only [List.foldl_cons, List.foldl_nil]
  rw [turn_wr3, turn_issue1_data (by simp [Kind.style]), turn_issue2_program (by simp [Kind.style])]
  refine ⟨_, rfl, rfl, by simp [LoopKept, State.loopVars], ?_, ?_, ?_, ?_, ?_, ?_⟩ <;> simp [programs, encodeCmd]

/-- `ISSUE.3` to `ISSUE.4` with the transfer signalled: the wait ends at once, and the chunk's `Issue` returns
(R131). -/
theorem turns_signalled (hs : s.seq = [.issue3, .wr3]) (hk : s.work.arg.kind = .pageProgram)
    (hx : s.regs.txsig = 1) :
    ∃ t, [0, 0, 0, 0].foldl State.turn s = t ∧ t.seq = [.wr4] ∧ LoopKept s t ∧ t.regs.txsig = 0 ∧ t.hb = s.hb
      ∧ t.link = s.link ∧ t.io.trace = s.io.trace := by
  rw [← at_self hs]
  simp only [List.foldl_cons, List.foldl_nil]
  rw [turn_issue3, turn_wait1, turn_wait2 (by simp [hk, Kind.style]) (by simp [hx]),
    turn_issue4 (by simp [hk, Kind.style]) (by simp), returnTo_wr3]
  refine ⟨_, rfl, rfl, by simp [LoopKept, State.loopVars], ?_, ?_, ?_, ?_⟩ <;> simp [hx]

/-- `WR.4`: the chip is not busy at the first read (R142). -/
theorem turns_notBusy (hs : s.seq = [.wr4]) :
    ∃ t, [0, 0, 0, 0, 0, 0].foldl State.turn s = t ∧ ReportKept s t ∧ t.seq = [.wr5] := by
  have hcall : ReportKept s (s.turn 0) ∧ (s.turn 0).seq = [.poll1, .wr4] := by
    rw [← at_self hs, turn_wr4]
    exact ⟨⟨rfl, rfl, rfl, rfl, rfl⟩, rfl⟩
  obtain ⟨hkept, hq⟩ := hcall
  have hargs : pollArgs (s.turn 0).cfg .wr4 = some (s.cfg.srWip, 0, s.cfg.tCmd) := by
    rw [hkept.loop.cfg]
    rfl
  obtain ⟨t, ht, hpoll⟩ := turns_poll hq hargs (BitVec.zero_and (x := s.cfg.srWip))
  exact ⟨returnTo [.wr4] t, ht, hkept.trans (hpoll.trans (returnTo_reportKept _ _)), rfl⟩

/-- From `WR.2` to the acceptance of the chunk's transfer. -/
theorem InRun.accept (h : InRun s) {rest : List Event} (hs : s.seq = [.wr2])
    (he : s.io.events = [0, 0, 0, 0, 0, 0, 0, s.cfg.srWel, 0, 0, 0, 0].map Event.ok ++ rest) :
    ∃ t, Reaches 12 s t ∧ t.io.events = rest ∧ t.seq = [.issue3, .wr3] ∧ LoopKept s t ∧ t.regs.txsig = s.regs.txsig
      ∧ t.hb = s.hb ∧ t.link.tx = s.link.tx ++ [⟨s.work.p + s.work.off, s.work.chunk, []⟩]
      ∧ t.link.sent = s.link.sent ∧ t.work.arg.kind = .pageProgram
      ∧ programs t.io.trace
        = (s.work.cur, s.work.p + s.work.off, s.work.chunk) :: programs s.io.trace := by
  obtain ⟨t, ht, hkept, hseq⟩ := turns_writeEnable hs
  obtain ⟨u, hu, hq, hloop, hx, hhb, htx, hsent, hkind, hprog⟩ := turns_program hseq
  have hfold : [0, 0, 0, 0, 0, 0, 0, s.cfg.srWel, 0, 0, 0, 0].foldl State.turn s = u := by
    rw [← hu, ← ht]
    rfl
  obtain ⟨hrun, hev⟩ := h.turns he
  rw [hfold] at hrun hev
  obtain ⟨hkloop, hkx, hkhb, hklink, hkprog⟩ := hkept
  rw [hkloop.p, hkloop.off, hkloop.chunk] at htx hprog
  rw [hkloop.cur, hkprog] at hprog
  rw [hklink] at htx hsent
  exact ⟨u, hrun, hev, hq, hkloop.trans hloop, hx.trans hkx, hhb.trans hkhb, htx, hsent, hkind, hprog⟩

/-- The transfer of the chunk completes before CTRL waits for it: its bytes are sent and the signal is raised (R43,
R130). -/
theorem InRun.complete (h : InRun s) {rest : List Event} {x : TxXfer} (he : s.io.events = .cbTx (some 0) :: rest)
    (hx : s.regs.txsig = 0) (htx : s.link.tx = [x]) (hin : x.ptr.toNat + x.len.toNat ≤ s.cfg.hbSize) :
    ∃ t, Reaches 1 s t ∧ t.io.events = rest ∧ t.seq = s.seq ∧ LoopKept s t ∧ t.regs.txsig = 1 ∧ t.hb = s.hb
      ∧ t.link.tx = [] ∧ t.link.sent = x.bytes s.hb :: s.link.sent ∧ t.work.arg = s.work.arg
      ∧ t.io.trace = s.io.trace := by
  have hhead : (s.afterEvents rest).link.tx[0]? = some x := by simp [htx]
  have hstep := step_agent h.valid he nofun
  rw [agentStep, completeTx_inside hhead hin] at hstep
  refine ⟨_, reaches_one hstep, rfl, rfl, rfl, ?_, rfl, ?_, rfl, rfl, rfl⟩
  · simp [State.txRaised, hx]
  · simp [htx]

/-- From the signalled transfer to `WR.5`. -/
theorem InRun.settle (h : InRun s) {rest : List Event} (hs : s.seq = [.issue3, .wr3])
    (hk : s.work.arg.kind = .pageProgram) (hx : s.regs.txsig = 1)
    (he : s.io.events = [0, 0, 0, 0, 0, 0, 0, 0, 0, 0].map Event.ok ++ rest) :
    ∃ t, Reaches 10 s t ∧ t.io.events = rest ∧ t.seq = [.wr5] ∧ LoopKept s t ∧ t.regs.txsig = 0 ∧ t.hb = s.hb
      ∧ t.link = s.link ∧ programs t.io.trace = programs s.io.trace := by
  obtain ⟨t, ht, hq, hloop, hsig, hhb, hlink, htrace⟩ := turns_signalled hs hk hx
  obtain ⟨u, hu, hkept, hseq⟩ := turns_notBusy hq
  have hfold : [0, 0, 0, 0, 0, 0, 0, 0, 0, 0].foldl State.turn s = u := by
    rw [← hu, ← ht]
    rfl
  obtain ⟨hrun, hev⟩ := h.turns he
  rw [hfold] at hrun hev
  exact ⟨u, hrun, hev, hseq, hloop.trans hkept.loop, hkept.txsig.trans hsig, hkept.hb.trans hhb, hkept.link.trans hlink,
    htrace ▸ hkept.programs⟩

end Phases

/-! ### The chunks of a run (R157, R158) -/

/-- The page-program command of a chunk: address, buffer pointer, length. -/
def Chunk.program (p : Word) (x : Chunk) : Word × Word × Word :=
  (BitVec.ofNat 32 x.addr, p + BitVec.ofNat 32 x.off, BitVec.ofNat 32 x.len)

/-- The bytes of the buffer at `p` that a chunk transmits (R44). -/
def Chunk.bytes (m : Memory) (p : Nat) (x : Chunk) : List Byte :=
  (List.range' x.off x.len).map (fun i => hbByte m (p + i))

/-- From `s` to `t` the chunks `l` have been sent, and nothing else; `rest` is left of the schedule. -/
structure ChunksSent (p : Word) (rest : List Event) (l : List Chunk) (s t : State) : Prop where
  hb       : t.hb = s.hb
  events   : t.io.events = rest
  programs : programs t.io.trace = (l.map (Chunk.program p)).reverse ++ programs s.io.trace
  sent     : t.link.sent = (l.map (Chunk.bytes s.hb p.toNat)).reverse ++ s.link.sent

theorem ChunksSent.cons {p : Word} {mid rest : List Event} {x : Chunk} {l : List Chunk} {s t u : State}
    (h : ChunksSent p mid [x] s t) (h' : ChunksSent p rest l t u) : ChunksSent p rest (x :: l) s u where
  hb := h'.hb.trans h.hb
  events := h'.events
  programs := by rw [h'.programs, h.programs]; simp
  sent := by rw [h'.sent, h.sent, h.hb]; simp

/-- A WRITE of `n` bytes at `a` from the buffer at `p` begins the chunk at offset `off`, of length `len`, or has come to
its end, with no transfer signalled or in flight. -/
structure LoopHead (c : Config) (a n : Nat) (p : Word) (off len : Nat) (s : State) : Prop where
  run      : InRun s
  seq      : s.seq = if off = n then [.wr6] else [.wr2]
  cfg      : s.cfg = c
  a        : s.work.a.toNat = a
  n        : s.work.n.toNat = n
  p        : s.work.p = p
  off      : s.work.off.toNat = off
  len      : s.work.chunk.toNat = len
  progress : s.regs.progress = s.work.off
  txsig    : s.regs.txsig = 0
  tx       : s.link.tx = []

section Chunks

variable {c : Config} {a n off len : Nat} {p : Word} {s : State}

theorem LoopHead.chunkOk (h : LoopHead c a n p off len s) (hoff : off ≠ n) : ChunkOk s := by
  obtain ⟨-, hloop, -⟩ := h.run.write
  exact hloop .wr2 (by rw [h.seq, if_neg hoff]; rfl) rfl

/-- The command that `WR.3` builds is that of the chunk (R157, R158). -/
theorem LoopHead.program_eq (h : LoopHead c a n p off len s) (hoff : off ≠ n) :
    (s.work.cur, s.work.p + s.work.off, s.work.chunk) = Chunk.program p ⟨a + off, off, len⟩ := by
  have hcur := (h.chunkOk hoff).cur
  simp only [Chunk.program, ← h.a, ← h.off, ← h.len, ← h.p, ← hcur, BitVec.ofNat_toNat, BitVec.setWidth_eq]

/-- A buffer inside `HB` does not wrap, so the transfer of a chunk is inside `HB` and transmits the chunk's bytes. -/
theorem LoopHead.transfer (h : LoopHead c a n p off len s) (hoff : off ≠ n) (hfit : p.toNat + n ≤ c.hbSize)
    (hsize : c.hbSize ≤ 2 ^ 32) :
    (s.work.p + s.work.off).toNat + s.work.chunk.toNat ≤ s.cfg.hbSize
      ∧ TxXfer.bytes ⟨s.work.p + s.work.off, s.work.chunk, []⟩ s.hb
        = Chunk.bytes s.hb p.toNat ⟨a + off, off, len⟩ := by
  obtain ⟨-, -, hne, -, hrest, -, -⟩ := h.chunkOk hoff
  rw [h.len] at hne
  rw [h.off, h.len, h.n] at hrest
  have hptr : (s.work.p + s.work.off).toNat = p.toNat + off := by
    rw [BitVec.toNat_add_of_lt (by rw [h.p, h.off]; omega), h.p, h.off]
  refine ⟨by rw [hptr, h.len, h.cfg]; omega, ?_⟩
  simp [TxXfer.bytes, Chunk.bytes, hptr, h.len, List.range'_eq_map_range, Nat.add_assoc]

/-- The events of a chunk as CTRL's turns around the completion. -/
theorem promptChunk_append (c : Config) (rest : List Event) :
    promptChunk c ++ rest
      = [0, 0, 0, 0, 0, 0, 0, c.srWel, 0, 0, 0, 0].map Event.ok
        ++ .cbTx (some 0) :: ([0, 0, 0, 0, 0, 0, 0, 0, 0, 0].map Event.ok ++ .ok 0 :: rest) := rfl

theorem length_promptChunk (c : Config) : (promptChunk c).length = 12 + (1 + (10 + 1)) := rfl

/-- The events of a chunk but the last lead to `WR.5` with the chunk sent. -/
theorem LoopHead.send (h : LoopHead c a n p off len s) (hoff : off ≠ n) (hfit : p.toNat + n ≤ c.hbSize)
    (hsize : c.hbSize ≤ 2 ^ 32) {rest : List Event} (he : s.io.events = promptChunk c ++ rest) :
    ∃ t, Reaches (12 + (1 + 10)) s t ∧ t.seq = [.wr5] ∧ LoopKept s t ∧ t.regs.txsig = 0 ∧ t.link.tx = []
      ∧ ChunksSent p (.ok 0 :: rest) [⟨a + off, off, len⟩] s t := by
  obtain ⟨hin, hbytes⟩ := h.transfer hoff hfit hsize
  rw [promptChunk_append, ← h.cfg] at he
  obtain ⟨t, hrun₁, hev₁, hseq₁, hloop₁, hsig₁, hhb₁, htx₁, hsent₁, hkind₁, hprog₁⟩ :=
    h.run.accept (by rw [h.seq, if_neg hoff]) he
  rw [h.tx, List.nil_append] at htx₁
  have hrun₁' := h.run.reaches hrun₁
  obtain ⟨u, hrun₂, hev₂, hseq₂, hloop₂, hsig₂, hhb₂, htx₂, hsent₂, harg₂, htrace₂⟩ :=
    hrun₁'.complete hev₁ (hsig₁.trans h.txsig) htx₁ (by rw [hloop₁.cfg]; exact hin)
  obtain ⟨v, hrun₃, hev₃, hseq₃, hloop₃, hsig₃, hhb₃, hlink₃, hprog₃⟩ :=
    (hrun₁'.reaches hrun₂).settle (hseq₂.trans hseq₁) (by rw [harg₂, hkind₁]) hsig₂ hev₂
  refine ⟨v, hrun₁.trans (hrun₂.trans hrun₃), hseq₃, hloop₁.trans (hloop₂.trans hloop₃), hsig₃, by rw [hlink₃, htx₂],
    hhb₃.trans (hhb₂.trans hhb₁), hev₃, ?_, ?_⟩
  · rw [hprog₃, htrace₂, hprog₁, h.program_eq hoff]
    rfl
  · rw [hlink₃, hsent₂, hsent₁, hhb₁, hbytes]
    rfl

/-- One chunk: the loop comes to its next one, or to its end. -/
theorem LoopHead.chunk (h : LoopHead c a n p off len s) (hoff : off ≠ n) (hfit : p.toNat + n ≤ c.hbSize)
    (hsize : c.hbSize ≤ 2 ^ 32) {rest : List Event} (he : s.io.events = promptChunk c ++ rest) :
    ∃ t, Reaches (promptChunk c).length s t ∧ LoopHead c a n p (off + len) (nextChunk c (n - (off + len))) t
      ∧ ChunksSent p rest [⟨a + off, off, len⟩] s t := by
  obtain ⟨t, hrun, hseq, hloop, hsig, htx, hsent⟩ := h.send hoff hfit hsize he
  have hinrun := h.run.reaches hrun
  obtain ⟨hst, hev⟩ := hinrun.step_turn hsent.events
  have hadd := (hloop.chunkOk (h.chunkOk hoff)).toNat_off_add_chunk
  have hsum : (t.work.off + t.work.chunk).toNat = off + len := by rw [hadd, hloop.off, hloop.chunk, h.off, h.len]
  have hlast : t.work.off + t.work.chunk = t.work.n ↔ off + len = n := by
    rw [← BitVec.toNat_inj, hsum, hloop.n, h.n]
  have hturn := turn_wr5 t 0
  have hnext := hinrun.step hst
  rw [at_self hseq] at hturn
  rw [hturn] at hst hev hnext
  refine ⟨_, hrun.trans (reaches_one hst), ?head, ?sent⟩
  case head => exact {
    run := hnext
    seq := by simp only [at_seq, hlast]
    cfg := hloop.cfg.trans h.cfg
    a := (congrArg BitVec.toNat hloop.a).trans h.a
    n := (congrArg BitVec.toNat hloop.n).trans h.n
    p := hloop.p.trans h.p
    off := hsum
    len := (toNat_nextChunk ..).trans (by rw [answered_work, answered_cfg, hsum, hloop.cfg, h.cfg, hloop.n, h.n])
    progress := rfl
    txsig := hsig
    tx := htx }
  case sent => exact ⟨hsent.hb, hev, hsent.programs, hsent.sent⟩

/-- All chunks of a WRITE, by induction along the chunk list. -/
theorem LoopHead.finish (hp : 1 ≤ c.pageSize) (hfit : p.toNat + n ≤ c.hbSize) (hsize : c.hbSize ≤ 2 ^ 32)
    {rest : List Event} (h : LoopHead c a n p 0 (firstChunk c a n) s)
    (he : s.io.events = (List.replicate (chunks c a n).length (promptChunk c)).flatten ++ rest) :
    ∃ t len, Reaches ((chunks c a n).length * (promptChunk c).length) s t ∧ LoopHead c a n p n len t
      ∧ ChunksSent p rest (chunks c a n) s t := by
  refine chunks_induction (c := c) (a := a) (n := n) hp
    (motive := fun off len l => ∀ s, LoopHead c a n p off len s →
      s.io.events = (List.replicate l.length (promptChunk c)).flatten ++ rest →
      ∃ t len, Reaches (l.length * (promptChunk c).length) s t ∧ LoopHead c a n p n len t ∧ ChunksSent p rest l s t)
    ?done ?step s h he
  case done =>
    intro len s h he
    rw [List.length_nil, Nat.zero_mul]
    exact ⟨s, len, rfl, h, rfl, he, rfl, rfl⟩
  case step =>
    intro off len l hoff _ ih s h he
    rw [List.length_cons, List.replicate_succ, List.flatten_cons, List.append_assoc] at he
    obtain ⟨t, hrun, ht, hsent⟩ := h.chunk (Nat.ne_of_lt hoff) hfit hsize he
    obtain ⟨u, lenu, hrun', hu, hsent'⟩ := ih t ht hsent.events
    refine ⟨u, lenu, ?_, hu, hsent.cons hsent'⟩
    rw [List.length_cons, Nat.succ_mul, Nat.add_comm]
    exact hrun.trans hrun'

end Chunks

/-! ### The whole operation (R157, R165, R171) -/

section Whole

variable {s : State} {rest : List Event}

/-- `START.1` and `WR.1` lead to the head of the loop, if the checks pass. -/
theorem InRun.enter (h : InRun s) (hs : s.seq = [.start1]) (hw : decodeOp s.work.op = .write)
    (hi : s.regs.inited = true) (hr : s.work.a.toNat + s.work.n.toNat ≤ s.cfg.capacity) (hx : s.regs.txsig = 0)
    (htx : s.link.tx = []) (he : s.io.events = okSteps 2 ++ rest) :
    ∃ t, Reaches 2 s t
      ∧ LoopHead s.cfg s.work.a.toNat s.work.n.toNat s.work.p 0 (firstChunk s.cfg s.work.a.toNat s.work.n.toNat) t
      ∧ ChunksSent s.work.p rest [] s t := by
  obtain ⟨hrun, hev⟩ := h.turns (bs := [0, 0]) he
  have hinrun := h.reaches hrun
  have hturn := turn_wr1 (s.answered 0) 0
  rw [← turn_start1 hw hi (decide_eq_true hr), at_self hs] at hturn
  rw [List.foldl_cons, List.foldl_cons, List.foldl_nil, hturn] at hrun hev hinrun
  have hzero : s.work.n = 0 ↔ 0 = s.work.n.toNat := by rw [← BitVec.toNat_inj, eq_comm]; rfl
  refine ⟨_, hrun, ?head, ⟨rfl, hev, rfl, rfl⟩⟩
  case head => exact {
    run := hinrun
    seq := by simp only [at_seq, answered_work, hzero]
    cfg := rfl
    a := rfl
    n := rfl
    p := rfl
    off := rfl
    len := toNat_firstChunk ..
    progress := rfl
    txsig := hx
    tx := htx }

/-- The HOST's write of the operation word starts a WRITE (R165). -/
theorem step_startsWrite (hv : s.cfg.valid = true) (hs : s.seq = [])
    (he : s.io.events = .hostWrite s.cfg.regBase .word 4 :: rest) :
    step s = .next (start 4 (s.afterEvents rest)) := by
  have hbusy : (s.afterEvents rest).busy = false := (busy_eq_false_iff _).2 hs
  rw [step_hostWrite (i := 0) hv he (by decide), regWrite, hbusy]
  rfl

/-- The end of the loop is the end of the operation (R157 `WR.6`). -/
theorem LoopHead.ends {c : Config} {a n len : Nat} {p : Word} (h : LoopHead c a n p n len s)
    (he : s.io.events = okSteps 1 ++ rest) :
    Reaches 1 s (complete .ok 0 false (s.answered 0)) ∧ (s.answered 0).io.events = rest := by
  have hseq : s.seq = [.wr6] := by rw [h.seq, if_pos rfl]
  obtain ⟨hst, hev⟩ := h.run.step_turn he
  have hturn := turn_wr6 s 0
  rw [at_self hseq] at hturn
  rw [hturn] at hst hev
  exact ⟨reaches_one hst, hev⟩

end Whole

/-- The bytes of all chunks are those of the buffer, in order (R44, R161). -/
theorem flatten_map_bytes {c : Config} (hp : 1 ≤ c.pageSize) (m : Memory) (a n p : Nat) :
    ((chunks c a n).map (Chunk.bytes m p)).flatten = (List.range n).map (fun i => hbByte m (p + i)) := by
  rw [← chunks_flatMap_range' (a := a) hp, List.map_flatMap, List.flatMap_def]
  rfl

theorem decodeOp_write : decodeOp (opField 4) = .write := by decide

/-- Settles O60: the start, the chunks by induction along their list, and `WR.6`. -/
theorem writeSendsTheChunks : Obligations.WriteSendsTheChunks := by
  rintro s rest k hv hsize hs hi hx htx hrange hfit rfl he
  have hp := (geometry_of_valid hv).1
  have hidle : InRun s := ⟨hv, controlOk_of_idle hs, writeOk_of_idle hs⟩
  rw [List.cons_append, List.cons_append, List.cons_append, List.append_assoc, List.append_assoc] at he
  have hstart := step_startsWrite hv hs he
  obtain ⟨t, hrun, hhead, hnone⟩ := (hidle.step hstart).enter rfl decodeOp_write hi hrange hx htx rfl
  obtain ⟨u, len, hrun', hend, hsent⟩ := hhead.finish hp hfit hsize hnone.events
  obtain ⟨hrun'', hev⟩ := hend.ends hsent.events
  have hcount (m : Nat) : 4 + m = 1 + (2 + (m + 1)) := by omega
  refine ⟨complete .ok 0 false (u.answered 0), ?_, rfl, rfl, rfl, ?_, rfl, hend.txsig, hend.tx, ?_, hev, ?_, ?_⟩
  · rw [hcount]
    exact (reaches_one hstart).trans (hrun.trans (hrun'.trans hrun''))
  · exact hend.progress.trans (BitVec.eq_of_toNat_eq hend.off)
  · exact hsent.hb.trans hnone.hb
  · exact hsent.programs.trans (congrArg _ hnone.programs)
  · have hall : u.link.sent = _ := hsent.sent.trans (congrArg _ hnone.sent)
    have htake : (complete .ok 0 false (u.answered 0)).link.sent = u.link.sent := rfl
    rw [htake, hall, hnone.hb, List.take_left' (by simp), List.reverse_reverse]
    exact flatten_map_bytes hp _ _ _ _

end Sys2Proof.Machine
end

section
/-! The Block-Device Facade (spec/44_facade_ops.md): the start of an operation (rules R165 to R167) and the labelled
steps of INIT, GET_INFO, READ, the erases, GET_STATUS and the low-power operations (rules R168 to R178). -/

namespace Sys2Proof.Machine

/-! ### The start (R165) -/

/-- The HOST's write of an operation word while idle starts the operation. -/
theorem step_starts {s : State} {v : Word} {rest : List Event} (hv : s.cfg.valid = true) (hs : s.seq = [])
    (he : s.io.events = .hostWrite s.cfg.regBase .word v :: rest) : step s = .next (start v (s.afterEvents rest)) := by
  have hbusy : (s.afterEvents rest).busy = false := (busy_eq_false_iff _).2 hs
  rw [step_hostWrite (i := 0) hv he (by decide), regWrite, hbusy]
  rfl

/-- Settles O12: the write to register 0 of an idle block is the start. -/
theorem startLatchesOperands : Obligations.StartLatchesOperands := fun _ _ _ hv hs he => step_starts hv hs he

/-! ### The range checks (R167) -/

theorem rangeOk_eq_true_iff {c : Config} {a n : Word} : rangeOk c a n = true ↔ a.toNat + n.toNat ≤ c.capacity :=
  decide_eq_true_iff

theorem rangeOk_eq_false_iff {c : Config} {a n : Word} : rangeOk c a n = false ↔ c.capacity < a.toNat + n.toNat :=
  decide_eq_false_iff_not.trans Nat.not_le

theorem blockOk_eq_true_iff {c : Config} {k : Word} : blockOk c k = true ↔ k.toNat < c.capacity / c.blockSize :=
  decide_eq_true_iff

theorem blockOk_eq_false_iff {c : Config} {k : Word} : blockOk c k = false ↔ c.capacity / c.blockSize ≤ k.toNat :=
  decide_eq_false_iff_not.trans Nat.not_lt

/-- An empty range is inside the capacity up to its end, and not beyond. -/
theorem rangeOk_empty_at_end {c : Config} (h : c.capacity + 1 < 2 ^ 32) :
    rangeOk c (BitVec.ofNat 32 c.capacity) 0 = true ∧ rangeOk c (BitVec.ofNat 32 (c.capacity + 1)) 0 = false := by
  rw [rangeOk_eq_true_iff, rangeOk_eq_false_iff, BitVec.toNat_ofNat, BitVec.toNat_ofNat, Nat.mod_eq_of_lt h,
    Nat.mod_eq_of_lt (Nat.lt_of_succ_lt h)]
  exact ⟨Nat.le_refl _, Nat.lt_succ_self _⟩

/-- The sum of the largest address and 2 does not wrap around to 1. -/
theorem rangeOk_no_wrap {c : Config} (h : c.capacity ≤ 2 ^ 32) : rangeOk c 0xFFFFFFFF 2 = false :=
  rangeOk_eq_false_iff.2 (Nat.lt_succ_of_le h)

/-- Settles O37: both checks on naturals, and the examples. -/
theorem rangeChecks : Obligations.RangeChecks :=
  ⟨fun _ _ _ => ⟨rangeOk_eq_true_iff, blockOk_eq_true_iff⟩, fun _ => rangeOk_empty_at_end, fun _ => rangeOk_no_wrap,
    by decide⟩

/-! ### START.1 (R166) -/

/-- START.1 of a checked operation in the words of the statements; `p` says that the geometry check fails. -/
theorem startChecked_at {g : Bool} {p : Prop} [Decidable p] (hg : g = false ↔ p) (first : Label) (s : State) :
    startChecked g first (s.at [.start1])
      = if s.regs.inited = false then s.endedWith 5 s.work.stage.toNat 0
        else if p then s.endedWith 4 s.work.stage.toNat 0 else s.at [first] := by
  simp only [startChecked, raise_eq_endedWith, hg]
  rfl

/-- START.1 of an operation without a geometry check. -/
theorem startChecked_true_at (first : Label) (s : State) :
    startChecked true first (s.at [.start1])
      = if s.regs.inited = false then s.endedWith 5 s.work.stage.toNat 0 else s.at [first] := by
  rw [startChecked_at (p := False) (by simp), if_neg not_false]

theorem badOpStep_at_start1 (s : State) :
    badOpStep (s.at [.start1]) = .next (s.endedWith 6 s.work.stage.toNat 0) :=
  congrArg _ (raise_eq_endedWith .badOp _)

/-- Settles O25, operation by operation. -/
theorem startChecks : Obligations.StartChecks := by
  intro s
  refine ⟨fun i hi => ?reserved, rfl, rfl, fun x hx => ?checked, fun x hx => ?ranged, ?block⟩
  case reserved =>
    have hbad : exec i (s.at [.start1]) = badOpStep (s.at [.start1]) := by
      revert i
      simp only [List.forall_mem_cons]
      exact ⟨rfl, rfl, rfl, rfl, rfl, nofun⟩
    exact hbad.trans (badOpStep_at_start1 s)
  case checked =>
    have hchecked : exec x.1 (s.at [.start1]) = .next (startChecked true x.2 (s.at [.start1])) := by
      revert x
      simp only [List.forall_mem_cons]
      exact ⟨rfl, rfl, rfl, rfl, rfl, rfl, nofun⟩
    rw [hchecked, startChecked_true_at]
  case ranged =>
    have hranged : exec x.1 (s.at [.start1])
        = .next (startChecked (rangeOk s.cfg s.work.a s.work.n) x.2 (s.at [.start1])) := by
      revert x
      simp only [List.forall_mem_cons]
      exact ⟨rfl, rfl, nofun⟩
    rw [hranged, startChecked_at rangeOk_eq_false_iff]
  case block => exact congrArg _ (startChecked_at blockOk_eq_false_iff .eb1 s)

/-! ### INIT (R168) -/

/-- `IN.1` when the link accepts its reset. -/
theorem initReset_accepted {s : State} {b : Bytes4} (hans : s.io.ans = .ok b) :
    initReset (s.at [.in1])
      = (({ s with regs.inited := false, work.stage := 1 } : State).traced (.reset true)).at [.in2] := by
  simp only [initReset, at_io, hans]
  rfl

/-- `IN.11`: the status byte, then `CFG_LEN` configuration bytes with the high-performance bits; the rest is kept. -/
theorem Bytes4.get_configPayload (old : Bytes4) (c : Config) (sr : Byte) (t : Bytes3) {j : Nat} (hj : j < 3) :
    (old.configPayload c sr t).get (j + 1) = if j < c.cfgLen then configByte c t j else old.get (j + 1) := by
  match j, hj with
  | 0, _ | 1, _ | 2, _ => rfl

/-- Settles O26, label by label. -/
theorem initSteps : Obligations.InitSteps := fun s =>
  ⟨fun _ hans => congrArg _ (initReset_accepted hans), rfl, rfl, rfl, rfl, rfl, rfl, rfl, rfl, rfl,
    ⟨s.work.regbuf.configPayload s.cfg s.work.srT s.work.cfgT, rfl, rfl,
      fun _ hj => Bytes4.get_configPayload _ _ _ _ hj⟩,
    rfl, rfl, congrArg _ (complete_eq_endedWith .ok 0 false _)⟩

/-! ### GET_INFO (R169) -/

/-- A parameter that fits its register is shown exactly. -/
theorem infoWord_toNat {v : Nat} (h : v < 2 ^ 32) (draw : Nat) : (infoWord v draw).toNat = v := by
  rw [infoWord, if_pos h, BitVec.toNat_ofNat, Nat.mod_eq_of_lt h]

/-- Settles O27: the three geometry words are those of `infoWord`. -/
theorem getInfoLatchesTheGeometry : Obligations.GetInfoLatchesTheGeometry := fun s =>
  ⟨infoWord s.cfg.capacity s.io.draws, infoWord s.cfg.pageSize (s.io.draws + 1),
    infoWord s.cfg.blockSize (s.io.draws + 2), congrArg _ (complete_eq_endedWith .ok 0 false _),
    fun h => infoWord_toNat h _, fun h => infoWord_toNat h _, fun h => infoWord_toNat h _⟩

/-! ### The other operations (R170, R172 to R174, R177, R178) -/

/-- The last label of an operation: `Complete(OK, 0, 0)` (R201). -/
theorem completeOk_at (q : List Label) (s : State) : complete .ok 0 false (s.at q) = s.endedWith 0 0 0 :=
  complete_eq_endedWith .ok 0 false _

/-- Settles O28, label by label. -/
theorem readSteps : Obligations.ReadSteps := fun s => ⟨rfl, rfl, congrArg _ (completeOk_at [.rd3] s)⟩

/-- Settles O30, label by label. -/
theorem eraseSteps : Obligations.EraseSteps := fun s =>
  ⟨rfl, rfl, rfl, congrArg _ (completeOk_at [.eb4] s), rfl, rfl, rfl, congrArg _ (completeOk_at [.ec4] s)⟩

/-- The three operations that read the status leave the labels of `GetStatus` to the shared step (R148). -/
theorem exec_at_getStatus {i : Instr} (hi : i ∈ [Instr.getStatus, .suspendErase, .resumeErase]) {l : Label}
    (hl : l.sub = some .getStatus) (up : List Label) (s : State) :
    exec i (s.at (l :: up)) = getStatusStep (s.at (l :: up)) := by
  simp only [List.mem_cons, List.not_mem_nil, or_false] at hi
  cases l with
  | gs1 | gs2 | gs3 => rcases hi with rfl | rfl | rfl <;> rfl
  | _ => simp [Label.sub] at hl

/-- `GetStatus` returns to the label after its call (R11). -/
theorem returnTo_getStatus {l : Label} (h : l.calls = some .getStatus) (up : List Label) (s : State) :
    returnTo (l :: up) s = s.at (l.succ :: up) := by
  cases l with
  | gst1 | su1 | rs1 => rfl
  | _ => simp [Label.calls] at h

/-- Settles O31: the callers' labels, and the subroutine by its shared step. -/
theorem getStatusSteps : Obligations.GetStatusSteps := by
  intro s
  refine ⟨rfl, congrArg _ (completeOk_at [.gst2] s), fun i hi up => ?reads, fun x hx => ?classifies⟩
  case reads => exact ⟨exec_at_getStatus hi rfl up s, exec_at_getStatus hi rfl up s⟩
  case classifies =>
    have hcaller : x.1 ∈ [Instr.getStatus, .suspendErase, .resumeErase] ∧ x.2.1.calls = some .getStatus
        ∧ x.2.1.succ = x.2.2 := by
      revert x
      decide
    obtain ⟨hi, hcalls, hsucc⟩ := hcaller
    rw [exec_at_getStatus hi rfl, getStatusStep, at_seq]
    simp only [returnTo_getStatus hcalls, hsucc]
    rfl

/-- Settles O33, label by label. -/
theorem lowPowerSteps : Obligations.LowPowerSteps := fun s =>
  ⟨rfl, congrArg _ (completeOk_at [.le2] s), rfl, congrArg _ (completeOk_at [.ll2] s)⟩

end Sys2Proof.Machine
end

section
/-! `STAT.INITED` over a whole step (spec/44_facade_ops.md rule R168, spec/60_exceptions.md rule R207): an INIT past
`IN.1` has it at 0, and only `IN.14` ends INIT with OK. -/

namespace Sys2Proof.Machine

/-! ### The latched operation and the registers over a step -/

@[simp] theorem returnTo_op (up : List Label) (s : State) : (returnTo up s).work.op = s.work.op :=
  (returnTo_op_arg up s).1

/-- CTRL's labelled step leaves the latched operation (R23), label by label. -/
theorem micro_op (s : State) : (micro s).work.op = s.work.op := by
  cases hs : s.seq with
  | nil => simp only [micro, hs]
  | cons l up =>
    cases l <;> simp only [micro, hs]
    case start1 => rcases startStep_cases s with ⟨e, h⟩ | ⟨l, h, -⟩ <;> rw [h] <;> rfl
    case in1 => unfold initReset; split <;> rfl
    case wr1 => unfold writeFirst; split <;> rfl
    case wr5 => unfold writeAdvance; dsimp only; split <;> rfl
    case rd1 | su2 | rs2 => split <;> rfl
    case poll1 =>
      repeat' split
      all_goals rfl
    case poll3 =>
      unfold pollTest
      repeat' split
      all_goals simp
    case gs3 => simp
    case issue1 =>
      unfold issueSend
      repeat' split
      all_goals simp
    case issue2 =>
      unfold dataStep issueRxb issueTxb issueRxa issueTxa
      repeat' split
      all_goals simp
    case issue4 =>
      unfold releaseStep issueEnd
      repeat' split
      all_goals simp
    case wait2 =>
      unfold waitStep waitRx waitTx
      repeat' split
      all_goals simp
    all_goals rfl

/-- An agent other than CTRL leaves the registers but for the operands and the signals; it starts an operation while
idle, or resets the block (R12, R130, R165, R225). -/
theorem agentStep_regs {e : Event} {s t : State} (h : agentStep e s = .next t) :
    (∃ a n p rx tx, t.regs = { s.regs with addr := a, len := n, bufptr := p, rxsig := rx, txsig := tx })
      ∨ (∃ v, t = start v s) ∨ t = resetBlock s := by
  have kept {t : State} (h : t.regs = s.regs) :
      ∃ a n p rx tx, t.regs = { s.regs with addr := a, len := n, bufptr := p, rxsig := rx, txsig := tx } :=
    ⟨_, _, _, _, _, h⟩
  cases e with
  | hostWrite addr w v =>
    simp only [agentStep] at h
    split at h <;> cases h
    next i _ =>
      rcases regWrite_cases i v s with h | ⟨-, -, h⟩ | ⟨-, -, h⟩ | ⟨-, -, h⟩ | ⟨-, -, h⟩ <;> rw [h]
      case inr.inl => exact .inr (.inl ⟨v, rfl⟩)
      all_goals exact .inl ⟨_, _, _, _, _, rfl⟩
  | hostRead | hbWrite | hbRead =>
    simp only [agentStep] at h
    split at h <;> cases h
    exact .inl (kept rfl)
  | tick => cases h; exact .inl (kept (by simp))
  | cbRx done => exact .inl ⟨_, _, _, _, _, (completeRx_frame h).1⟩
  | cbTx done => exact .inl ⟨_, _, _, _, _, (completeTx_frame h).1⟩
  | linkStore k i b => obtain rfl | ⟨_, _, _, _, _, rfl⟩ := storeEarly_cases h <;> exact .inl (kept rfl)
  | linkFetch k i => obtain rfl | ⟨_, _, _, _, rfl⟩ := fetchEarly_cases h <;> exact .inl (kept rfl)
  | linkResidue i b => obtain rfl | ⟨_, _, _, _, rfl⟩ := residue_cases h <;> exact .inl (kept rfl)
  | rst => cases h; exact .inr (.inr rfl)
  | ctrl | linkDropRx | linkDropTx => cases h; exact .inl (kept rfl)

/-! ### Inside INIT (R168) -/

/-- From `s` to `t` `INITED` stays, and no operation ends with OK (R207). -/
def NoOkEnd (s t : State) : Prop :=
  t.regs.inited = s.regs.inited ∧ (t.regs.done = s.regs.done ∨ t.regs.result ≠ 0)

theorem noOkEnd_of_eq {s t : State} (hi : t.regs.inited = s.regs.inited) (hd : t.regs.done = s.regs.done) :
    NoOkEnd s t := ⟨hi, .inl hd⟩

/-- The result of an error is not 0 (R18). -/
theorem resultWord_ne_zero {e : Err} (he : e ≠ .ok) (g : BitVec 4) (p : Bool) : resultWord e g p ≠ 0 := by
  intro h
  have hcode : e.code = 0 := by rw [← resultWord_code e g p, h]; rfl
  cases e with
  | ok => exact he rfl
  | _ => cases hcode

theorem noOkEnd_raise {s t : State} {e : Err} (he : e ≠ .ok) (hi : t.regs.inited = s.regs.inited) :
    NoOkEnd s (raise e t) := ⟨hi, .inr (resultWord_ne_zero he _ _)⟩

/-- A label of INIT's stack is of INIT or of a subroutine, so it is none of those at which another operation ends. -/
theorem init_label_cases {op : BitVec 4} {l : Label} {up : List Label} (hop : decodeOp op = .init)
    (h : legalSeq op (l :: up) = true) : l = .start1 ∨ l.instr = some .init ∨ l.sub ≠ none := by
  rcases legal_head h with ⟨-, h | h⟩ | ⟨-, h⟩
  · exact .inl h
  · exact .inr (.inl (hop ▸ h))
  · exact .inr (.inr h)

/-- The outermost label of a legal stack is the innermost one, or a call stands at it. -/
theorem outermost_calls {op : BitVec 4} {l : Label} {up : List Label} (h : legalSeq op (l :: up) = true) :
    ∀ m ∈ (l :: up).getLast?, m = l ∨ m.calls ≠ none := by
  induction up generalizing l with
  | nil => exact fun m hm => .inl (Option.some.inj hm).symm
  | cons x up ih =>
    obtain ⟨⟨b, -, hcall⟩, hleg⟩ := legal_cons_cons_iff.1 h
    rintro m hm
    rcases ih hleg m (by rwa [List.getLast?_cons_cons] at hm) with rfl | hm
    · exact .inr (by simp [hcall])
    · exact .inr hm

/-- A return inside INIT goes on, or fails to verify (R168, R198). -/
theorem returnTo_noOkEnd {x : Label} {up : List Label} {s t : State} (hop : decodeOp s.work.op = .init)
    (h : legalSeq s.work.op (x :: up) = true) (hi : t.regs.inited = s.regs.inited)
    (hd : t.regs.done = s.regs.done) : NoOkEnd s (returnTo up t) := by
  induction up generalizing x with
  | nil => exact noOkEnd_of_eq hi hd
  | cons l up ih =>
    obtain ⟨-, hleg⟩ := legal_cons_cons_iff.1 h
    have hl := init_label_cases hop hleg
    cases l with
    | wren2 => exact ih hleg
    | in7 | in13 =>
      simp only [returnTo]
      split
      exacts [noOkEnd_of_eq hi hd, noOkEnd_raise nofun hi]
    | su2 | rs2 => simp [Label.instr, Label.sub] at hl
    | _ => exact noOkEnd_of_eq hi hd

section Ctrl

variable {s : State} {l : Label} {up : List Label}

/-- The labels of `Issue` and `WaitFor` inside INIT: the only end is an error (R127, R131). -/
theorem micro_noOkEnd_of_transport (hop : decodeOp s.work.op = .init) (hc : ControlOk s) (hs : s.seq = l :: up)
    (hl : l.isTransport = true) : NoOkEnd s (micro s) := by
  have hreturn {t : State} (hi : t.regs.inited = s.regs.inited) (hd : t.regs.done = s.regs.done) :
      NoOkEnd s (returnTo up t) := returnTo_noOkEnd hop (hs ▸ hc.1) hi hd
  have hself : NoOkEnd s s := noOkEnd_of_eq rfl rfl
  cases l <;> simp only [micro, hs]
  case issue1 =>
    unfold issueSend
    split
    · exact noOkEnd_raise nofun rfl
    · split
      exacts [hreturn rfl rfl, noOkEnd_of_eq rfl rfl]
  case issue2 =>
    unfold dataStep
    split
    next => unfold issueRxb; split; exacts [noOkEnd_raise nofun rfl, hreturn rfl rfl]
    next => unfold issueTxb; split; exacts [noOkEnd_raise nofun rfl, hreturn rfl rfl]
    next => unfold issueRxa; split; exacts [noOkEnd_raise nofun rfl, noOkEnd_of_eq rfl rfl]
    next => unfold issueTxa; split; exacts [noOkEnd_raise nofun rfl, noOkEnd_of_eq rfl rfl]
    next => exact hself
  case issue3 | wait1 => exact noOkEnd_of_eq rfl rfl
  case issue4 =>
    unfold releaseStep issueEnd
    repeat' split
    exacts [noOkEnd_raise nofun rfl, hreturn rfl rfl, noOkEnd_raise nofun rfl, hreturn rfl rfl, hself]
  case wait2 =>
    unfold waitStep waitRx waitTx
    repeat' split
    exacts [hreturn rfl rfl, hreturn rfl rfl, hself, hreturn rfl rfl, hreturn rfl rfl, hself, hself]
  all_goals cases hl

/-- The other labels of INIT, but for its first two and its last. -/
theorem micro_noOkEnd_of_not_transport (hop : decodeOp s.work.op = .init) (hc : ControlOk s) (hs : s.seq = l :: up)
    (hl : l.isTransport = false) (hstart : l ≠ .start1) (h1 : l ≠ .in1) (h14 : l ≠ .in14) : NoOkEnd s (micro s) := by
  have hreturn {t : State} (hi : t.regs.inited = s.regs.inited) (hd : t.regs.done = s.regs.done) :
      NoOkEnd s (returnTo up t) := returnTo_noOkEnd hop (hs ▸ hc.1) hi hd
  have hinit := init_label_cases hop (hs ▸ hc.1)
  cases l <;> simp only [micro, hs]
  case issue1 | issue2 | issue3 | issue4 | wait1 | wait2 => cases hl
  case start1 => exact absurd rfl hstart
  case in1 => exact absurd rfl h1
  case in14 => exact absurd rfl h14
  case in2 | in3 | in4 | in5 | in6 | in7 | in8 | in9 | in10 | in11 | in12 | in13 | poll2 | wren1 | wren2 | gs1 | gs2 =>
    exact noOkEnd_of_eq rfl rfl
  case poll1 =>
    repeat' split
    all_goals exact noOkEnd_of_eq rfl rfl
  case poll3 =>
    unfold pollTest
    split
    · exact hreturn rfl rfl
    · split
      exacts [noOkEnd_raise nofun rfl, noOkEnd_of_eq rfl rfl]
  case gs3 => exact hreturn rfl rfl
  all_goals simp [Label.instr, Label.sub] at hinit

/-! ### The invariant -/

/-- With INIT running past `IN.1` the invariant says that `INITED` is 0. -/
theorem InitedOk.running (h : InitedOk s) (hop : decodeOp s.work.op = .init) (hc : ControlOk s) (hs : s.seq = l :: up)
    (hstart : l ≠ .start1) (h1 : l ≠ .in1) : s.regs.inited = false := by
  obtain ⟨hpast, -⟩ := h
  obtain ⟨m, hm, hlabel⟩ := legal_last hc.1 (by simp [hs])
  have hcalls : m = l ∨ m.calls ≠ none := outermost_calls (op := s.work.op) (hs ▸ hc.1) m (hs ▸ hm)
  have hne {x : Label} (hx : x.calls = none) (hl : l ≠ x) : m ≠ x := by
    rintro rfl
    rcases hcalls with rfl | h
    exacts [hl rfl, h hx]
  exact hpast m hm (hop ▸ hlabel.resolve_left (hne rfl hstart)) (hne rfl h1)

/-- An INIT that fails, or goes on with `INITED` at 0. -/
theorem initedOk_of_noOkEnd {t : State} (hi : s.regs.inited = false) (hd : s.regs.done = false) (h : NoOkEnd s t) :
    InitedOk t := by
  obtain ⟨hinited, hend⟩ := h
  have ht : t.regs.inited = false := hinited.trans hi
  refine ⟨fun _ _ _ _ => ht, fun hdone _ => ?_⟩
  have hresult : t.regs.result ≠ 0 := hend.resolve_left (by simp [hdone, hd])
  exact iff_of_false (by simp [ht]) hresult

/-- Of another operation the invariant says nothing. -/
theorem initedOk_of_other {t : State} (hop : decodeOp t.work.op ≠ .init) (hc : ControlOk t) : InitedOk t := by
  refine ⟨fun l hl hinit _ => ?_, fun _ h => absurd h hop⟩
  have hne : t.seq ≠ [] := by
    intro hnil
    simp [hnil] at hl
  obtain ⟨m, hm, hlabel⟩ := legal_last hc.1 hne
  obtain rfl : m = l := Option.some.inj (hm.symm.trans hl)
  rcases hlabel with rfl | hlabel
  · cases hinit
  · exact absurd (Option.some.inj (hlabel.symm.trans hinit)) hop

/-- CTRL's labelled step. START.1 leads to `IN.1`, `IN.1` clears `INITED`, `IN.14` sets it and ends with OK. -/
theorem micro_initedOk (hc : ControlOk s) (hd : DoneOk s) (h : InitedOk s) : InitedOk (micro s) := by
  cases hs : s.seq with
  | nil => simpa only [micro, hs] using h
  | cons l up =>
    by_cases hop : decodeOp s.work.op = .init
    rotate_left
    · exact initedOk_of_other (by rwa [micro_op]) (micro_control hc)
    have hdone : s.regs.done = false := hd (by simp [hs])
    by_cases hstart : l = .start1
    · subst hstart
      have halone := alone_of_legal hc hs rfl
      simp only [micro, hs, startStep, hop]
      exact ⟨by simp [halone], by simp [hdone]⟩
    by_cases h1 : l = .in1
    · subst h1
      simp only [micro, hs, initReset]
      split
      · exact initedOk_of_noOkEnd (s := { s with regs.inited := false }) rfl hdone (noOkEnd_raise nofun rfl)
      · exact initedOk_of_noOkEnd (s := { s with regs.inited := false }) rfl hdone (noOkEnd_of_eq rfl rfl)
    by_cases h14 : l = .in14
    · subst h14
      simp only [micro, hs]
      exact ⟨nofun, fun _ _ => iff_of_true rfl rfl⟩
    refine initedOk_of_noOkEnd (h.running hop hc hs hstart h1) hdone ?_
    by_cases hl : l.isTransport = true
    · exact micro_noOkEnd_of_transport hop hc hs hl
    · exact micro_noOkEnd_of_not_transport hop hc hs (by simpa using hl) hstart h1 h14

end Ctrl

/-- The other agents leave what the invariant speaks of; a start and a reset leave nothing to say. -/
theorem agentStep_initedOk {e : Event} {s t : State} (h : InitedOk s) (hst : agentStep e s = .next t) :
    InitedOk t := by
  have hstart (v : Word) : InitedOk (start v s) := by simp [InitedOk, Label.instr]
  have hreset : InitedOk (resetBlock s) := (resultOk_initedOk_of_not_done rfl rfl).2
  rcases agentStep_regs hst with ⟨_, _, _, _, _, hregs⟩ | ⟨v, rfl⟩ | rfl
  rotate_left
  · exact hstart v
  · exact hreset
  rcases agentStep_control_cases hst with ⟨hseq, hop, -⟩ | ⟨v, -, rfl⟩ | ⟨-, rfl⟩
  · rw [InitedOk, hseq, hop, hregs]
    exact h
  · exact hstart v
  · exact hreset

/-- Taking the event off the schedule leaves it too. -/
theorem takeEvent_initedOk {s : State} (h : InitedOk s) (e : Event) (rest : List Event) :
    InitedOk (s.takeEvent e rest) := by
  simpa [InitedOk] using h

/-- Settles O52: CTRL's labelled step and every agent's step keep the invariant. -/
theorem failedInitLeavesUninitialised : Obligations.FailedInitLeavesUninitialised := by
  intro s t hc hd h hst
  rcases step_micro hc hst with rfl | ⟨_, rest, -, -, rfl⟩ | ⟨a, rest, -, -, rfl⟩ | ⟨e, rest, -, -, ha⟩
  · exact h
  · exact takeEvent_initedOk h _ _
  · refine micro_initedOk (takeEvent_control hc _ _) ?_ (takeEvent_initedOk h _ _)
    rwa [DoneOk, takeEvent_seq, takeEvent_regs]
  · exact agentStep_initedOk (takeEvent_initedOk h _ _) ha

end Sys2Proof.Machine
end

section
/-! A READ over a prompt link (spec/44_facade_ops.md rule R170): CTRL's turns up to the wait, the completion of the
transfer (spec/20_memory.md rule R43), and CTRL's turns to the end. -/

namespace Sys2Proof.Machine

/-! ### The turn at each label of a READ -/

theorem returnTo_rd2 (up : List Label) (s : State) : returnTo (.rd2 :: up) s = s.at (.rd3 :: up) := rfl

section Turn

variable {s : State} {up : List Label} {b : Byte}

/-- An initialised block enters READ if the range is inside the capacity (R166, R167). -/
theorem turn_start1_read (hw : decodeOp s.work.op = .read) (hi : s.regs.inited = true)
    (hr : rangeOk s.cfg s.work.a s.work.n = true) : (s.at [.start1]).turn b = (s.answered b).at [.rd1] := by
  simp only [State.turn, State.answered, micro, takeEvent_seq, at_seq, startStep, takeEvent_work, at_work, hw,
    startChecked, takeEvent_regs, at_regs, hi, takeEvent_cfg, at_cfg, hr, Bool.true_eq_false, if_false]
  rfl

/-- A READ that is not empty goes on to its command. -/
theorem turn_rd1 (hn : s.work.n ≠ 0) : (s.at [.rd1]).turn b = (s.answered b).at [.rd2] :=
  if_neg hn

theorem turn_rd2 :
    (s.at [.rd2]).turn b
      = ((s.answered b).pending .readArray s.work.a s.work.n s.work.p).at [.issue1, .rd2] := rfl

theorem turn_rd3 : (s.at [.rd3]).turn b = complete .ok 0 false (s.answered b) := rfl

/-- An array receive takes its handle and is in flight. -/
theorem turn_issue2_receive (hk : s.work.arg.kind.style = .asyncRx) :
    (s.at (.issue2 :: up)).turn b
      = (({ s.answered b with
          regs.rxh := true
          link.rx := s.link.rx ++ [⟨s.work.arg.ptr, s.work.cmd.dlen⟩] } : State).traced
            (.rxa s.work.arg.ptr s.work.cmd.dlen true)).at (.issue3 :: up) := by
  have hans : (s.answered b).io.ans = .ok ⟨b, 0, 0, 0⟩ := rfl
  have hread := exec_array_read hans s.work.arg.kind s.work.arg.a s.work.arg.n up hk
  rw [exec_at_issue2, issueData, hk] at hread
  simp only [State.turn, State.answered, micro, takeEvent_seq, at_seq, dataStep, takeEvent_work, at_work, hk]
  exact Host.Outcome.next.inj hread

/-- A signalled receive ends the wait (R131). -/
theorem turn_wait2_receive (hk : s.work.arg.kind.style = .asyncRx) (hx : s.regs.rxsig ≠ 0) :
    (s.at (.wait2 :: .issue3 :: up)).turn b
      = ({ s.answered b with regs.rxsig := s.regs.rxsig - 1, work.waited := .ok } : State).at (.issue4 :: up) := by
  simp only [State.turn, State.answered, micro, takeEvent_seq, at_seq, waitStep, takeEvent_work, at_work, hk,
    waitRx_issue3, takeEvent_regs, at_regs, if_pos hx]
  rfl

/-- After a wait that has ended with the signal the handle is released, and `Issue` returns (R127). -/
theorem turn_issue4_receive (hk : s.work.arg.kind.style = .asyncRx) (hw : s.work.waited = .ok) :
    (s.at (.issue4 :: up)).turn b = returnTo up { s.answered b with regs.rxh := false } := by
  rw [← returnTo_at up (.issue4 :: up)]
  simp only [State.turn, State.answered, micro, takeEvent_seq, at_seq, releaseStep, takeEvent_work, at_work, hk,
    issueEnd, hw, reduceCtorEq, if_false]
  rfl

end Turn

/-- The result of an operation that ended well (R18). -/
theorem resultWord_ok : resultWord .ok 0 false = 0 := by decide

/-! ### The three parts of a READ (R127, R170) -/

/-- CTRL waits for the receive of `n` bytes into the buffer at `p`, which is in flight; `s` is the state at START.1. -/
structure Receiving (s t : State) : Prop where
  seq   : t.seq = [.wait2, .issue3, .rd2]
  kind  : t.work.arg.kind = .readArray
  cfg   : t.cfg = s.cfg
  hb    : t.hb = s.hb
  rxsig : t.regs.rxsig = s.regs.rxsig
  rx    : t.link.rx = s.link.rx ++ [⟨s.work.p, s.work.n⟩]
  trace : t.io.trace = .rxa s.work.p s.work.n true
    :: .send .readArray (arrayRead s.cfg s.work.a s.work.n) true :: s.io.trace

/-- A READ has ended with OK, with no handle held. -/
structure ReadEnded (s t : State) : Prop where
  seq    : t.seq = []
  result : t.regs.result = 0
  done   : t.regs.done = true
  rxh    : t.regs.rxh = false
  rxsig  : t.regs.rxsig = s.regs.rxsig - 1
  hb     : t.hb = s.hb
  rx     : t.link.rx = s.link.rx
  trace  : t.io.trace = s.io.trace

section Phases

variable {s : State}

/-- From START.1 to the wait: the checks pass, the command is sent and its transfer is accepted. -/
theorem turns_receive (hs : s.seq = [.start1]) (hw : decodeOp s.work.op = .read) (hi : s.regs.inited = true)
    (hr : rangeOk s.cfg s.work.a s.work.n = true) (hn : s.work.n ≠ 0) :
    Receiving s ([0, 0, 0, 0, 0, 0, 0].foldl State.turn s) := by
  rw [← at_self hs]
  simp only [List.foldl_cons, List.foldl_nil]
  rw [turn_start1_read hw hi hr, turn_rd1 (s := s.answered 0) hn, turn_rd2, turn_issue1_data (by simp [Kind.style]),
    turn_issue2_receive (by simp [Kind.style]), turn_issue3, turn_wait1]
  constructor <;> simp [encodeCmd, readCmd_eq_arrayRead, arrayRead]

/-- From the signalled wait to the end of the operation. -/
theorem turns_received (hs : s.seq = [.wait2, .issue3, .rd2]) (hk : s.work.arg.kind = .readArray)
    (hx : s.regs.rxsig ≠ 0) : ReadEnded s ([0, 0, 0].foldl State.turn s) := by
  rw [← at_self hs]
  simp only [List.foldl_cons, List.foldl_nil]
  rw [turn_wait2_receive (by simp [hk, Kind.style]) hx, turn_issue4_receive (by simp [hk, Kind.style]) (by simp),
    returnTo_rd2, turn_rd3]
  constructor
  case result => exact resultWord_ok
  all_goals simp

/-- CTRL's seven turns up to the wait. -/
theorem InRun.receive (h : InRun s) {rest : List Event} (hs : s.seq = [.start1]) (hw : decodeOp s.work.op = .read)
    (hi : s.regs.inited = true) (hr : s.work.a.toNat + s.work.n.toNat ≤ s.cfg.capacity) (hn : s.work.n ≠ 0)
    (he : s.io.events = okSteps 7 ++ rest) : ∃ t, Reaches 7 s t ∧ t.io.events = rest ∧ Receiving s t := by
  obtain ⟨hrun, hev⟩ := h.turns (bs := [0, 0, 0, 0, 0, 0, 0]) he
  exact ⟨_, hrun, hev, turns_receive hs hw hi (rangeOk_eq_true_iff.2 hr) hn⟩

/-- The transfer completes: its data is in the buffer, and the signal is raised (R43, R130). -/
theorem InRun.fill (h : InRun s) {d : List Byte} {rest : List Event} {x : RxXfer}
    (he : s.io.events = .cbRx (some (0, d)) :: rest) (hx : s.regs.rxsig = 0) (hrx : s.link.rx = [x])
    (hd : d.length = x.len.toNat) {m : Memory} (hm : memWrite s.cfg s.hb x.ptr.toNat d = some m) :
    ∃ t, Reaches 1 s t ∧ t.io.events = rest ∧ t.seq = s.seq ∧ t.work = s.work ∧ t.regs.rxsig = 1 ∧ t.hb = m
      ∧ t.link.rx = [] ∧ t.io.trace = s.io.trace := by
  have hhead : (s.afterEvents rest).link.rx[0]? = some x := by simp [hrx]
  have hstep := step_agent h.valid he nofun
  rw [agentStep, completeRx_inside hhead hd hm] at hstep
  refine ⟨_, reaches_one hstep, rfl, rfl, rfl, ?_, rfl, ?_, rfl⟩
  · simp [State.rxRaised, hx]
  · simp [hrx]

/-- CTRL's three turns to the end. -/
theorem InRun.endRead (h : InRun s) {rest : List Event} (hs : s.seq = [.wait2, .issue3, .rd2])
    (hk : s.work.arg.kind = .readArray) (hx : s.regs.rxsig ≠ 0) (he : s.io.events = okSteps 3 ++ rest) :
    ∃ t, Reaches 3 s t ∧ t.io.events = rest ∧ ReadEnded s t := by
  obtain ⟨hrun, hev⟩ := h.turns (bs := [0, 0, 0]) he
  exact ⟨_, hrun, hev, turns_received hs hk hx⟩

end Phases

theorem decodeOp_read : decodeOp (opField 3) = .read := by decide

/-- Settles O59: the start, CTRL's turns to the wait, the completion, and CTRL's turns to the end. -/
theorem readFillsTheBuffer : Obligations.ReadFillsTheBuffer := by
  intro s d rest hv hs hi hx hrx hwf hn hrange hd hfit he
  rw [List.cons_append, List.cons_append, List.append_assoc, List.cons_append] at he
  have hidle : InRun s := ⟨hv, controlOk_of_idle hs, writeOk_of_idle hs⟩
  have hstart := step_starts hv hs he
  have hbegun := hidle.step hstart
  obtain ⟨t, hrun₁, hev₁, hwait⟩ := hbegun.receive rfl decodeOp_read hi hrange hn rfl
  have hrx₁ : t.link.rx = [⟨s.regs.bufptr, s.regs.len⟩] := by
    rw [hwait.rx, start_link, afterEvents_link, hrx]
    rfl
  obtain ⟨m, hm, -, hread⟩ := memWrite_inside (c := s.cfg) (a := s.regs.bufptr.toNat) (v := d) hwf (by rwa [hd])
  have hm₁ : memWrite t.cfg t.hb s.regs.bufptr.toNat d = some m := by
    rw [hwait.cfg, hwait.hb]
    exact hm
  have hinrun₁ := hbegun.reaches hrun₁
  obtain ⟨u, hrun₂, hev₂, hseq₂, hwork₂, hsig₂, hhb₂, hrx₂, htrace₂⟩ :=
    hinrun₁.fill hev₁ (hwait.rxsig.trans hx) hrx₁ hd hm₁
  obtain ⟨v, hrun₃, hev₃, hend⟩ :=
    (hinrun₁.reaches hrun₂).endRead (hseq₂.trans hwait.seq) (by rw [hwork₂, hwait.kind]) (by simp [hsig₂]) hev₂
  have hrun : Reaches 12 s v := (reaches_one hstart).trans (hrun₁.trans (hrun₂.trans hrun₃))
  refine ⟨v, hrun, hend.result, hend.done, hend.seq, hend.rxh, ?_, hend.rx.trans hrx₂, hev₃,
    hend.trace.trans (htrace₂.trans hwait.trace), ?_⟩
  · rw [hend.rxsig, hsig₂]
    rfl
  · rw [hend.hb, hhb₂]
    exact hread

end Sys2Proof.Machine
end

section
/-! The results of the operations (spec/60_exceptions.md rule R206): every operation ends with a result of its row of
the table, with the initialisation step it was in (spec/10_state.md rules R18, R28). -/

namespace Sys2Proof.Machine

/-! ### The initialisation step of a position (R28, R168) -/

/-- A subroutine runs in the step of its caller; `IN.3` and `IN.8` advance the step as they call. -/
theorem stageAt_call (x : Label) {l : Label} (h3 : l ≠ .in3) (h8 : l ≠ .in8) (up : List Label) :
    stageAt (x :: l :: up) = stageAt (l :: up) := by
  cases up with
  | nil => cases l <;> simp_all [stageAt]
  | cons m up => simp [stageAt]

/-- A label that is none of INIT's stands alone in no initialisation step. -/
theorem stageAt_singleton {l : Label} (h : l.instr ≠ some .init) : stageAt [l] = 0 := by
  cases l <;> simp_all [stageAt, Label.instr]

/-- A move between two labels that are none of INIT's. -/
theorem stageAt_swap {l m : Label} (hl : l.instr ≠ some .init) (hm : m.instr ≠ some .init) (up : List Label) :
    stageAt (m :: up) = stageAt (l :: up) := by
  cases up with
  | nil => rw [stageAt_singleton hl, stageAt_singleton hm]
  | cons x up => simp [stageAt]

/-- The label after a call is in the step of the call. -/
theorem stageAt_succ (x : Label) {l : Label} (h : l.calls ≠ none) (up : List Label) :
    stageAt (l.succ :: up) = stageAt (x :: l :: up) := by
  cases up with
  | nil => cases l <;> simp_all [stageAt, Label.calls, Label.succ]
  | cons m up => simp [stageAt]

/-- A label of an operation is of no subroutine. -/
theorem sub_eq_none_of_instr {l : Label} {i : Instr} (h : l.instr = some i) : l.sub = none := by
  cases l <;> simp_all [Label.instr, Label.sub]

/-- Inside a subroutine the outermost label is one of the operation's calls. -/
theorem outermost_of_sub {op : BitVec 4} {l : Label} {up : List Label} (h : legalSeq op (l :: up) = true)
    (hl : l.sub ≠ none) :
    up ≠ [] ∧ ∃ m, (l :: up).getLast? = some m ∧ m.calls ≠ none ∧ m.instr = some (decodeOp op) := by
  have hsub {x : Label} (hx : x = .start1 ∨ x.instr = some (decodeOp op)) : x.sub = none := by
    rcases hx with rfl | hx
    exacts [rfl, sub_eq_none_of_instr hx]
  have hup : up ≠ [] := by
    rcases legal_head h with ⟨-, hlabel⟩ | ⟨hup, -⟩
    exacts [absurd (hsub hlabel) hl, hup]
  obtain ⟨m, hm, hlabel⟩ := legal_last h (by simp)
  have hcalls : m.calls ≠ none := by
    rcases outermost_calls h m hm with rfl | hcalls
    exacts [absurd (hsub hlabel) hl, hcalls]
  refine ⟨hup, m, hm, hcalls, hlabel.resolve_left ?_⟩
  rintro rfl
  exact hcalls rfl

/-- The stages with which operation `i` can fail inside a subroutine: INIT in one of its three steps, any other in
stage 0 (R18). -/
def StageFits (i : Instr) (g : BitVec 4) : Prop := if i = .init then g = 1 ∨ g = 2 ∨ g = 3 else g = 0

/-- The step of a position inside a subroutine fits the operation that runs. -/
theorem stageFits_of_legal {op : BitVec 4} {l : Label} {up : List Label} (h : legalSeq op (l :: up) = true)
    (hl : l.sub ≠ none) : StageFits (decodeOp op) (stageAt (l :: up)) := by
  obtain ⟨hup, m, hm, hcalls, hinstr⟩ := outermost_of_sub h hl
  unfold StageFits
  split
  next hinit =>
    cases m <;> simp_all [Label.instr, Label.calls, stageAt]
  next hother =>
    cases m <;> simp_all [Label.instr, stageAt]

/-! ### Rows of the table (R206) -/

/-- Every operation that issues a command can end with LinkError (R196). -/
theorem allowed_link {i : Instr} {g : BitVec 4} (hi : usesSub .issue i = true) (hg : StageFits i g) :
    allowedResult i .link g false = true := by
  cases i <;> simp_all [usesSub, StageFits, allowedResult, or_assoc]

/-- Every operation that polls, and READ, can end with TimeoutError (R197). -/
theorem allowed_timeout {i : Instr} {g : BitVec 4} (hi : usesSub .poll i = true ∨ i = .read) (hg : StageFits i g) :
    allowedResult i .timeout g false = true := by
  cases i <;> simp_all [usesSub, StageFits, allowedResult, or_assoc]

/-- The invariant of the statement. -/
def ResultTable (s : State) : Prop := StageOk s ∧ DoneOk s ∧ ResultOk s

/-- An operation runs, in the step of its position (R17, R28). -/
structure Running (s : State) : Prop where
  done  : s.regs.done = false
  stage : s.work.stage = stageAt s.seq

theorem Running.resultTable {s : State} (h : Running s) : ResultTable s :=
  ⟨.inr h.stage, fun _ => h.done, by simp [ResultOk, h.done]⟩

theorem ResultTable.running {s : State} (h : ResultTable s) (hs : s.seq ≠ []) : Running s := by
  obtain ⟨hstage, hdone, -⟩ := h
  exact ⟨hdone hs, hstage.resolve_left hs⟩

/-- An idle block at which no operation has completed has no result to show. -/
theorem resultTable_of_idle {s : State} (hs : s.seq = []) (hd : s.regs.done = false) : ResultTable s :=
  ⟨.inl hs, fun h => absurd hs h, (resultOk_initedOk_of_not_done hs hd).1⟩

/-- An operation may end with any result of its row (R201). -/
theorem resultTable_complete {s : State} {e : Err} {g : BitVec 4} {p : Bool}
    (h : allowedResult (decodeOp s.work.op) e g p = true) : ResultTable (complete e g p s) :=
  ⟨.inl rfl, fun hne => absurd rfl hne, fun _ => ⟨e, g, p, rfl, h⟩⟩

/-- An error ends the operation with the stage it is in (R202). -/
theorem resultTable_raise {s : State} {e : Err} (h : allowedResult (decodeOp s.work.op) e s.work.stage false = true) :
    ResultTable (raise e s) := resultTable_complete h

/-! ### Inside an operation -/

/-- The operation, its step and `DONE` are those of `s`. -/
structure RunKept (s t : State) : Prop where
  op    : t.work.op = s.work.op
  stage : t.work.stage = s.work.stage
  done  : t.regs.done = s.regs.done

theorem runKept_refl (s : State) : RunKept s s := ⟨rfl, rfl, rfl⟩

/-- A label of an operation stands in the stack of that operation alone (R11). -/
theorem decodeOp_of_label {op : BitVec 4} {l : Label} {up : List Label} {i : Instr} (h : legalSeq op (l :: up) = true)
    (hl : l.instr = some i) : decodeOp op = i := by
  rcases legal_head h with ⟨-, rfl | hop⟩ | ⟨-, hsub⟩
  · cases hl
  · exact Option.some.inj (hop.symm.trans hl)
  · exact absurd (sub_eq_none_of_instr hl) hsub

/-- A return goes to the label after the call; `IN.7` and `IN.13` may fail to verify (R168, R198), and `SU.2` and `RS.2`
complete (R175, R176). -/
theorem returnTo_cases {l : Label} (up : List Label) (s : State) (hl : l ≠ .wren2) :
    ((returnTo (l :: up) s).seq = l.succ :: up ∧ RunKept s (returnTo (l :: up) s))
      ∨ ((l = .in7 ∨ l = .in13) ∧ returnTo (l :: up) s = raise .verify s)
      ∨ ((l = .su2 ∨ l = .rs2) ∧ returnTo (l :: up) s = complete .ok 0 false s) := by
  cases l with
  | wren2 => exact absurd rfl hl
  | in7 | in13 =>
    simp only [returnTo]
    split
    exacts [.inl ⟨rfl, rfl, rfl, rfl⟩, .inr (.inl ⟨by simp, rfl⟩)]
  | su2 | rs2 => exact .inr (.inr ⟨by simp, rfl⟩)
  | _ => exact .inl ⟨rfl, rfl, rfl, rfl⟩

/-- A verification fails in INIT's second or third step (R198). -/
theorem raise_verify_resultTable {x l : Label} {up : List Label} {s : State} (hl : l = .in7 ∨ l = .in13)
    (h : legalSeq s.work.op (l :: up) = true) (hg : s.work.stage = stageAt (x :: l :: up)) :
    ResultTable (raise .verify s) := by
  have hlabel : l.instr = some .init ∧ l.sub = none := by rcases hl with rfl | rfl <;> exact ⟨rfl, rfl⟩
  obtain ⟨hinstr, hsub⟩ := hlabel
  obtain rfl : up = [] := by
    rcases legal_head h with ⟨hup, -⟩ | ⟨-, hne⟩
    exacts [hup, absurd hsub hne]
  refine resultTable_raise ?_
  rw [decodeOp_of_label h hinstr, hg]
  rcases hl with rfl | rfl <;> rfl

/-- A return from a legal position in the step of that position. -/
theorem returnTo_resultTable {x : Label} {up : List Label} {s : State} (h : legalSeq s.work.op (x :: up) = true)
    (hd : s.regs.done = false) (hg : s.work.stage = stageAt (x :: up)) : ResultTable (returnTo up s) := by
  induction up generalizing x with
  | nil => exact resultTable_of_idle rfl hd
  | cons l up ih =>
    obtain ⟨⟨b, -, hcall⟩, hleg⟩ := legal_cons_cons_iff.1 h
    by_cases hw : l = .wren2
    · subst hw
      exact ih hleg (by rw [hg, stageAt_call x (by simp) (by simp)])
    rcases returnTo_cases up s hw with ⟨hq, hkept⟩ | ⟨hl, hret⟩ | ⟨hl, hret⟩
    · refine Running.resultTable ⟨hkept.done.trans hd, ?_⟩
      rw [hkept.stage, hg, hq, stageAt_succ x (by simp [hcall])]
    · exact hret ▸ raise_verify_resultTable hl hleg hg
    · refine hret ▸ resultTable_complete ?_
      rcases hl with rfl | rfl <;> rw [decodeOp_of_label hleg rfl] <;> rfl

/-- Array transfers are issued from `RD.2` and `WR.3` alone. -/
theorem eq_rd2_or_wr3_of_style {l : Label} {k : Kind} (h : l.kind = some k)
    (hk : k.style = .asyncRx ∨ k.style = .asyncTx) : l = .rd2 ∨ l = .wr3 := by
  cases l <;> cases h <;> simp_all [Kind.style]

section Ctrl

variable {s t : State} {l : Label} {up : List Label} (hc : ControlOk s) (hr : Running s) (hs : s.seq = l :: up)

include hr in
/-- CTRL moves on in the same step. -/
theorem Running.move (hk : RunKept s t) (hq : stageAt t.seq = stageAt s.seq) : ResultTable t :=
  Running.resultTable ⟨hk.done.trans hr.done, by rw [hk.stage, hr.stage, hq]⟩

include hr hs

/-- CTRL moves between labels that are none of INIT's. -/
theorem Running.goto {m : Label} (ht : t.seq = l :: up) (hk : RunKept s t) (hl : l.instr ≠ some .init)
    (hm : m.instr ≠ some .init) : ResultTable (goto m t) :=
  hr.move ⟨hk.op, hk.stage, hk.done⟩ (by rw [goto_seq, ht, hs]; exact stageAt_swap hl hm up)

/-- CTRL calls a subroutine other than `Issue`. -/
theorem Running.call (m : Label) (h3 : l ≠ .in3) (h8 : l ≠ .in8) : ResultTable (call m s) :=
  hr.move ⟨rfl, rfl, rfl⟩ (by rw [call_seq, hs, stageAt_call m h3 h8])

/-- CTRL calls `Issue` in the same step. -/
theorem Running.callIssue (k : Kind) (a n p : Word) (ht : t.seq = l :: up) (hk : RunKept s t) (h3 : l ≠ .in3)
    (h8 : l ≠ .in8) : ResultTable (callIssue k a n p t) :=
  hr.move ⟨hk.op, hk.stage, hk.done⟩ (by rw [callIssue_seq, ht, hs, stageAt_call _ h3 h8])

include hc

/-- CTRL returns from the subroutine of its innermost label. -/
theorem Running.returns (hk : RunKept s t) : ResultTable (returnTo up t) :=
  returnTo_resultTable (x := l) (by rw [hk.op, ← hs]; exact hc.1) (hk.done.trans hr.done)
    (by rw [hk.stage, hr.stage, hs])

/-- What an error inside a subroutine shows as its stage fits the operation. -/
theorem Running.fits (hl : l.sub ≠ none) (hk : RunKept s t) : StageFits (decodeOp t.work.op) t.work.stage := by
  rw [hk.op, hk.stage, hr.stage, hs]
  exact stageFits_of_legal (hs ▸ hc.1) hl

/-- The link's error answer inside `Issue` (R196). -/
theorem Running.raise_link (hl : l.sub = some .issue) (hk : RunKept s t) : ResultTable (raise .link t) :=
  resultTable_raise (allowed_link (by rw [hk.op]; exact legal_uses (hs ▸ hc.1) hl) (hr.fits hc hs (by simp [hl]) hk))

/-- The poll's time-out (R197). -/
theorem Running.raise_timeout_poll (hl : l.sub = some .poll) : ResultTable (raise .timeout s) :=
  resultTable_raise
    (allowed_timeout (.inl (legal_uses (hs ▸ hc.1) hl)) (hr.fits hc hs (by simp [hl]) (runKept_refl s)))

omit hs in
/-- The time-out of an array transfer: only READ and WRITE have one (R197). -/
theorem Running.raise_timeout_transfer (hs : s.seq = .issue4 :: up)
    (hst : s.work.arg.kind.style = .asyncRx ∨ s.work.arg.kind.style = .asyncTx) (hk : RunKept s t) :
    ResultTable (raise .timeout t) := by
  have hfits := hr.fits hc hs (by simp [Label.sub]) hk
  obtain ⟨hleg, hkind, -⟩ := hc
  rw [hs] at hleg hkind
  cases up with
  | nil => simp [legalSeq, Label.instr] at hleg
  | cons m up =>
    have hm := eq_rd2_or_wr3_of_style (hkind m rfl) hst
    have hop : decodeOp t.work.op = .read ∨ decodeOp t.work.op = .write := by
      rw [hk.op]
      have hcaller := (legal_cons_cons_iff.1 hleg).2
      rcases hm with rfl | rfl
      exacts [.inl (decodeOp_of_label hcaller rfl), .inr (decodeOp_of_label hcaller rfl)]
    refine resultTable_raise (allowed_timeout ?_ hfits)
    rcases hop with hop | hop <;> rw [hop]
    exacts [.inr rfl, .inl rfl]

/-! ### CTRL's labelled steps -/

omit hs in
/-- START.1: an operation is entered, or refused with an error of its row (R166). -/
theorem startStep_resultTable (hs : s.seq = .start1 :: up) : ResultTable (startStep s) := by
  have halone := alone_of_legal hc hs rfl
  have hstage : s.work.stage = 0 := by rw [hr.stage, halone]; rfl
  obtain ⟨i, hop⟩ : ∃ i, decodeOp s.work.op = i := ⟨_, rfl⟩
  have hhost : i.linkArgs = none := hop ▸ decodeOp_not_link s.work.op
  have raises {e : Err} (h : allowedResult i e 0 false = true) : ResultTable (raise e s) :=
    resultTable_raise (by rwa [hop, hstage])
  have enters {m : Label} (hm : stageAt [m] = 0) : ResultTable (Machine.goto m s) :=
    hr.move ⟨rfl, rfl, rfl⟩ (by rw [goto_seq, halone]; exact hm)
  have checks {g : Bool} {m : Label} (hu : allowedResult i .uninit 0 false = true)
      (hg : g = true ∨ allowedResult i .geometry 0 false = true) (hm : stageAt [m] = 0) :
      ResultTable (startChecked g m s) := by
    rcases startChecked_cases g m s with ⟨-, h⟩ | ⟨-, hfail, h⟩ | ⟨-, -, h⟩ <;> rw [h]
    exacts [raises hu, raises (hg.resolve_left (by simp [hfail])), enters hm]
  cases i <;> simp only [startStep, hop]
  case init | getInfo => exact enters rfl
  case read | write | eraseBlock => exact checks rfl (.inr rfl) rfl
  case eraseChip | getStatus | suspendErase | resumeErase | enterLowPower | leaveLowPower =>
    exact checks rfl (.inl rfl) rfl
  case reserved0 | reservedC | reservedD | reservedE | reservedF => exact raises rfl
  all_goals cases hhost

/-- The labels of `Issue` and `WaitFor` (R127, R131): an error answer ends the operation with LinkError, a wait that
timed out with TimeoutError. -/
theorem micro_resultTable_of_transport (hl : l.isTransport = true) : ResultTable (micro s) := by
  have hself : ResultTable s := hr.resultTable
  have returns {t : State} (hk : RunKept s t) : ResultTable (returnTo up t) := hr.returns hc hs hk
  have issues {m : Label} {t : State} (hl : l.instr ≠ some .init) (hm : m.instr ≠ some .init) (ht : t.seq = m :: up)
      (hk : RunKept s t) : ResultTable t := hr.move hk (by rw [ht, hs]; exact stageAt_swap hl hm up)
  have fails {t : State} (hl : l.sub = some .issue) (hk : RunKept s t) : ResultTable (raise .link t) :=
    hr.raise_link hc hs hl hk
  cases l <;> simp only [micro, hs]
  case issue1 =>
    unfold issueSend
    split
    · exact fails rfl ⟨rfl, rfl, rfl⟩
    · split
      exacts [returns ⟨rfl, rfl, rfl⟩, issues (m := .issue2) nofun nofun rfl ⟨rfl, rfl, rfl⟩]
  case issue2 =>
    unfold dataStep
    split
    next => unfold issueRxb; split; exacts [fails rfl ⟨rfl, rfl, rfl⟩, returns ⟨rfl, rfl, rfl⟩]
    next => unfold issueTxb; split; exacts [fails rfl ⟨rfl, rfl, rfl⟩, returns ⟨rfl, rfl, rfl⟩]
    next =>
      unfold issueRxa
      split
      exacts [fails rfl ⟨rfl, rfl, rfl⟩, issues (m := .issue3) nofun nofun rfl ⟨rfl, rfl, rfl⟩]
    next =>
      unfold issueTxa
      split
      exacts [fails rfl ⟨rfl, rfl, rfl⟩, issues (m := .issue3) nofun nofun rfl ⟨rfl, rfl, rfl⟩]
    next => exact hself
  case issue3 => exact hr.call hs _ nofun nofun
  case issue4 =>
    unfold releaseStep issueEnd
    split
    next hst =>
      split
      exacts [hr.raise_timeout_transfer hc hs (.inl hst) ⟨rfl, rfl, rfl⟩, returns ⟨rfl, rfl, rfl⟩]
    next hst =>
      split
      exacts [hr.raise_timeout_transfer hc hs (.inr hst) ⟨rfl, rfl, rfl⟩, returns ⟨rfl, rfl, rfl⟩]
    next => exact hself
  case wait1 => exact issues (m := .wait2) nofun nofun (by simp) ⟨rfl, rfl, rfl⟩
  case wait2 =>
    unfold waitStep waitRx waitTx
    repeat' split
    exacts [returns ⟨rfl, rfl, rfl⟩, returns ⟨rfl, rfl, rfl⟩, hself, returns ⟨rfl, rfl, rfl⟩,
      returns ⟨rfl, rfl, rfl⟩, hself, hself]
  all_goals cases hl

/-- `IN.3` and `IN.8` call `Issue` in the next initialisation step (R168). -/
theorem callIssue_resultTable_of_next_stage (h : l = .in3 ∨ l = .in8) (k : Kind) (a n p : Word) (ht : t.seq = l :: up)
    (hd : t.regs.done = s.regs.done) (hg : t.work.stage = stageAt [.issue1, l]) :
    ResultTable (callIssue k a n p t) := by
  have hsub : l.sub = none := by rcases h with rfl | rfl <;> rfl
  have halone : t.seq = [l] := by rw [ht, ← hs, alone_of_legal hc hs hsub]
  exact Running.resultTable ⟨hd.trans hr.done, by simp only [callIssue_work, callIssue_seq, halone, hg]⟩

omit hs in
/-- `IN.1`: the step is INIT's first (R168). -/
theorem initReset_resultTable (hs : s.seq = .in1 :: up) : ResultTable (initReset s) := by
  have hop : decodeOp s.work.op = .init := decodeOp_of_label (hs ▸ hc.1) rfl
  have halone := alone_of_legal hc hs rfl
  unfold initReset
  split
  · exact resultTable_raise (by simp only [record_work, hop]; rfl)
  · exact Running.resultTable ⟨hr.done, by simp only [goto_work, goto_seq, record_work, record_seq, halone]; rfl⟩

/-- The other labels. -/
theorem micro_resultTable_of_not_transport (hl : l.isTransport = false) : ResultTable (micro s) := by
  have hself : ResultTable s := hr.resultTable
  have hleg : legalSeq s.work.op (l :: up) = true := hs ▸ hc.1
  have ends {i : Instr} {t : State} {p : Bool} (hi : l.instr = some i) (hop : t.work.op = s.work.op)
      (hok : allowedResult i .ok 0 p = true) : ResultTable (complete .ok 0 p t) :=
    resultTable_complete (by rwa [hop, decodeOp_of_label hleg hi])
  have moves {m : Label} {t : State} (hl : l.instr ≠ some .init) (hm : m.instr ≠ some .init) (ht : t.seq = l :: up)
      (hk : RunKept s t) : ResultTable (Machine.goto m t) := hr.goto hs ht hk hl hm
  cases l <;> simp only [micro, hs]
  case issue1 | issue2 | issue3 | issue4 | wait1 | wait2 => cases hl
  case start1 => exact startStep_resultTable hc hr hs
  case in1 => exact initReset_resultTable hc hr hs
  case in3 => exact callIssue_resultTable_of_next_stage hc hr hs (.inl rfl) _ _ _ _ rfl rfl rfl
  case in8 => exact callIssue_resultTable_of_next_stage hc hr hs (.inr rfl) _ _ _ _ rfl rfl rfl
  case in2 | in6 | in12 | wr4 | eb3 | ec3 | wren2 | in4 | in10 | wr2 | eb1 | ec1 | gst1 | su1 | rs1 =>
    exact hr.call hs _ nofun nofun
  case in5 | in7 | in9 | in11 | in13 | rd2 | wr3 | eb2 | ec2 | le1 | ll1 | poll2 | wren1 | gs1 | gs2 =>
    exact hr.callIssue hs _ _ _ _ hs ⟨rfl, rfl, rfl⟩ nofun nofun
  case in14 | gi1 | rd3 | wr6 | eb4 | ec4 | gst2 | le2 | ll2 => exact ends rfl rfl rfl
  case su2 | rs2 =>
    split
    exacts [hr.callIssue hs _ _ _ _ hs ⟨rfl, rfl, rfl⟩ nofun nofun, ends rfl rfl rfl]
  case rd1 => split <;> exact moves nofun nofun hs ⟨rfl, rfl, rfl⟩
  case wr1 => unfold writeFirst; split <;> exact moves nofun nofun hs ⟨rfl, rfl, rfl⟩
  case wr5 =>
    unfold writeAdvance
    dsimp only
    split <;> exact moves nofun nofun hs ⟨rfl, rfl, rfl⟩
  case poll1 =>
    split
    · split
      exacts [moves (m := .poll2) nofun nofun hs ⟨rfl, rfl, rfl⟩, hself]
    · exact hself
  case poll3 =>
    unfold pollTest
    split
    · exact hr.returns hc hs ⟨rfl, rfl, rfl⟩
    · split
      exacts [hr.raise_timeout_poll hc hs rfl, moves nofun nofun hs ⟨rfl, rfl, rfl⟩]
  case gs3 => exact hr.returns hc hs ⟨rfl, rfl, rfl⟩

omit hr hs in
/-- CTRL's labelled step. -/
theorem micro_resultTable (h : ResultTable s) : ResultTable (micro s) := by
  cases hs : s.seq with
  | nil => simpa only [micro, hs] using h
  | cons l up =>
    have hr : Running s := h.running (by simp [hs])
    cases hl : l.isTransport with
    | true => exact micro_resultTable_of_transport hc hr hs hl
    | false => exact micro_resultTable_of_not_transport hc hr hs hl

end Ctrl

/-! ### The other agents and the whole step -/

/-- The invariant reads the operation, its step and position, `DONE` and `RESULT`. -/
theorem resultTable_congr {s t : State} (h : ResultTable s) (hk : RunKept s t) (hq : t.seq = s.seq)
    (hres : t.regs.result = s.regs.result) : ResultTable t := by
  simpa only [ResultTable, StageOk, DoneOk, ResultOk, hk.op, hk.stage, hk.done, hq, hres] using h

/-- The other agents leave what the invariant speaks of; a start begins an operation in stage 0 with `DONE` at 0, and a
reset leaves nothing to say (R165, R225). -/
theorem agentStep_resultTable {e : Event} {s t : State} (h : ResultTable s) (hst : agentStep e s = .next t) :
    ResultTable t := by
  have hstart (v : Word) : ResultTable (start v s) := Running.resultTable ⟨rfl, rfl⟩
  have hreset : ResultTable (resetBlock s) := resultTable_of_idle rfl rfl
  rcases agentStep_regs hst with ⟨_, _, _, _, _, hregs⟩ | ⟨v, rfl⟩ | rfl
  rotate_left
  · exact hstart v
  · exact hreset
  rcases agentStep_block_cases hst with ⟨-, rfl⟩ | ⟨-, rfl⟩ | ⟨v, -, rfl⟩ | ⟨-, hkept⟩
  · exact resultTable_congr h ⟨by simp [tick_work], by simp [tick_work], by simp⟩ (by simp) (by simp)
  · exact hreset
  · exact hstart v
  · exact resultTable_congr h ⟨by rw [hkept.work], by rw [hkept.work], by rw [hregs]⟩ hkept.seq (by rw [hregs])

/-- Taking the event off the schedule leaves it too. -/
theorem takeEvent_resultTable {s : State} (h : ResultTable s) (e : Event) (rest : List Event) :
    ResultTable (s.takeEvent e rest) :=
  resultTable_congr h ⟨by simp, by simp, by simp⟩ (by simp) (by simp)

/-- Settles O51: CTRL's labelled step and every agent's step keep the invariant. -/
theorem resultTableKept : Obligations.ResultTableKept := by
  intro s t hc hstage hdone hresult hst
  have h : ResultTable s := ⟨hstage, hdone, hresult⟩
  rcases step_micro hc hst with rfl | ⟨_, rest, -, -, rfl⟩ | ⟨_, rest, -, -, rfl⟩ | ⟨e, rest, -, -, ha⟩
  · exact h
  · exact takeEvent_resultTable h _ _
  · exact micro_resultTable (takeEvent_control hc _ _) (takeEvent_resultTable h _ _)
  · exact agentStep_resultTable (takeEvent_resultTable h _ _) ha

end Sys2Proof.Machine
end

section
/-! The link's error answers and the harmless refusals (spec/60_exceptions.md rules R196, R199, R202), and the tick
(rule R212). -/

namespace Sys2Proof.Machine

/-! ### The tick (R212) -/

/-- Settles O19: the step of a tick is `tick`. -/
theorem tickLowersTheTimer : Obligations.TickLowersTheTimer := by
  intro s rest hv he
  rw [step_agent hv he nofun, agentStep, tick_eq]
  rfl

/-! ### Suspend and resume in the wrong state (R199) -/

/-- The no-op of R199: `Complete(OK, 0, 1)`. -/
theorem completePse_at (q : List Label) (s : State) : complete .ok 0 true (s.at q) = s.endedWith 0 0 1 :=
  complete_eq_endedWith .ok 0 true _

/-- Settles O32: `SU.2` and `RS.2` test the class that `GetStatus` has just latched. -/
theorem suspendResumeSteps : Obligations.SuspendResumeSteps := by
  refine fun s => ⟨rfl, ?suspend, rfl, ?resume⟩
  case suspend => rw [← completePse_at [.su2]]; rfl
  case resume => rw [← completePse_at [.rs2]]; rfl

/-! ### A refused primitive (R196, R202) -/

/-- A link command is the instruction of its kind. -/
theorem eq_instr_of_linkArgs {i : Instr} {k : Kind} {a n : Word} (h : i.linkArgs = some (k, a, n)) :
    i = k.instr a n := by
  cases i <;> cases h <;> rfl

section Refused

variable {s : State} (hans : s.io.ans = .error)

include hans

/-- The link refuses its reset: INIT fails in its first step (R168). -/
theorem exec_init_refused :
    exec .init (s.at [.in1])
      = .next ((({ s with regs.inited := false, work.stage := 1 } : State).traced (.reset false)).endedWith 1 1 0) := by
  have h : exec .init (s.at [.in1]) = .next (initReset (s.at [.in1])) := rfl
  simp only [h, initReset, at_io, hans, raise_eq_endedWith]
  rfl

variable (k : Kind) (a n : Word) (up : List Label)

/-- A refused command is followed by no data primitive. -/
theorem exec_send_refused :
    exec (k.instr a n) (s.at (.issue1 :: up))
      = .next ((s.sent k (encodeCmd s.cfg k a n) false).endedWith 1 s.work.stage.toNat 0) := by
  simp only [exec_at_issue1, issueSend, at_io, hans, raise_eq_endedWith]
  rfl

theorem exec_register_read_refused (hk : k.style = .blkRx) :
    exec (k.instr a n) (s.at (.issue2 :: up))
      = .next ((s.traced (.rxb s.work.cmd.dlen s.cfg.tBlocking none)).endedWith 1 s.work.stage.toNat 0) := by
  simp only [exec_at_issue2, issueData, hk, issueRxb, at_io, hans, raise_eq_endedWith]
  rfl

theorem exec_register_write_refused (hk : k.style = .blkTx) :
    exec (k.instr a n) (s.at (.issue2 :: up))
      = .next ((s.traced (.txb (s.work.regbuf.take s.work.cmd.dlen.toNat) s.cfg.tBlocking false)).endedWith
          1 s.work.stage.toNat 0) := by
  simp only [exec_at_issue2, issueData, hk, issueTxb, at_io, hans, raise_eq_endedWith]
  rfl

/-- A refused array receive leaves no handle held and no transfer in flight. -/
theorem exec_array_read_refused (hk : k.style = .asyncRx) :
    exec (k.instr a n) (s.at (.issue2 :: up))
      = .next ((s.traced (.rxa s.work.arg.ptr s.work.cmd.dlen false)).endedWith 1 s.work.stage.toNat 0) := by
  simp only [exec_at_issue2, issueData, hk, issueRxa, at_io, hans, raise_eq_endedWith]
  rfl

/-- A refused array transmit leaves no handle held and no transfer in flight. -/
theorem exec_array_program_refused (hk : k.style = .asyncTx) :
    exec (k.instr a n) (s.at (.issue2 :: up))
      = .next ((s.traced (.txa s.work.arg.ptr s.work.cmd.dlen false)).endedWith 1 s.work.stage.toNat 0) := by
  simp only [exec_at_issue2, issueData, hk, issueTxa, at_io, hans, raise_eq_endedWith]
  rfl

end Refused

/-- Settles O44: the link's reset, the command, and the data primitive of each style. -/
theorem linkErrorsEndTheOperation : Obligations.LinkErrorsEndTheOperation := by
  refine fun s hans => ⟨exec_init_refused hans, fun i k a n up hi => ?_⟩
  rw [eq_instr_of_linkArgs hi]
  exact ⟨exec_send_refused hans k a n up, exec_register_read_refused hans k a n up,
    exec_register_write_refused hans k a n up, exec_array_read_refused hans k a n up,
    exec_array_program_refused hans k a n up⟩

end Sys2Proof.Machine
end

section
/-! Writes while busy and the reset input (spec/70_reset_and_hazards.md rules R225, R227, R231, R232). -/

namespace Sys2Proof.Machine

/-- While an operation runs every register ignores the host (R231, R232). -/
theorem regWrite_busy {s : State} (hs : s.seq ≠ []) (i : Nat) (v : Word) : regWrite i v s = s :=
  if_pos ((busy_eq_true_iff s).2 hs)

/-- Settles O13: the host's write reaches `regWrite` of a busy block. -/
theorem writesWhileBusyAreIgnored : Obligations.WritesWhileBusyAreIgnored := by
  intro s i v rest hv hs hi he
  rw [step_hostWrite hv he hi, regWrite_busy (by simpa using hs)]

/-- The host-visible registers after the reset input are those of the machine right after reset (R225, R35). -/
theorem regRead_resetBlock (s : State) (i : Nat) : regRead (resetBlock s) i = regRead State.reset i := rfl

/-- The reset input leads from every state to the values of R35 (R225). -/
theorem resetValues_resetBlock (s : State) : ResetValues (resetBlock s) where
  registers i hi := (regRead_resetBlock s i).trans (resetStateValues.registers i hi)
  idle := rfl
  latches := resetStateValues.latches
  splitter := resetStateValues.splitter
  poller := resetStateValues.poller
  command := resetStateValues.command
  regbuf := resetStateValues.regbuf
  temps := resetStateValues.temps
  status := resetStateValues.status

/-- Settles O23: the step of the reset input is `resetBlock`, which leaves the configuration, `HB`, the link and the
ports alone (R227). -/
theorem resetEvent : Obligations.ResetEvent := by
  intro s rest hv he
  refine ⟨resetBlock (s.afterEvents rest), ?_, resetValues_resetBlock _, rfl, rfl, rfl, rfl⟩
  rw [step_agent hv he nofun, agentStep]

end Sys2Proof.Machine
end

section
/-! The write-enable right before each command it guards (spec/42_status_poller.md rule R146;
spec/70_reset_and_hazards.md rule R235). -/

namespace Sys2Proof.Machine

/-! ### What is asked of the trace, by the label stack -/

/-- The label issues a command that needs the latch confirmed (R146). -/
def Label.guarded (l : Label) : Bool := l.kind.any needsLatch

theorem guarded_iff (l : Label) :
    l.guarded = true ↔ l = .in5 ∨ l = .in11 ∨ l = .wr3 ∨ l = .eb2 ∨ l = .ec2 := by
  cases l <;> simp [Label.guarded, Label.kind, needsLatch]

section Asked

variable (s : State) (l m : Label) (up : List Label)

theorem latchPhase_alone :
    latchPhase (s.at [l]) ↔ (l.guarded = true → latchConfirmed s.cfg s.io.trace = true) := by
  rw [guarded_iff]
  rfl

theorem latchPhase_issuing :
    latchPhase (s.at [.issue1, l]) ↔ (l.guarded = true → latchConfirmed s.cfg s.io.trace = true) := by
  rw [guarded_iff]
  rfl

theorem latchPhase_wren2 : latchPhase (s.at (.wren2 :: m :: up)) ↔ latchPolls s.io.trace = true := by
  cases up <;> rfl

theorem latchPhase_poll1 : latchPhase (s.at (.poll1 :: .wren2 :: up)) ↔ latchPolls s.io.trace = true := by
  cases up <;> rfl

theorem latchPhase_poll2 :
    latchPhase (s.at (.poll2 :: .wren2 :: up))
      ↔ latchPolls s.io.trace = true ∧ s.work.pmask = s.cfg.srWel ∧ s.work.pmatch = s.cfg.srWel := by
  cases up <;> rfl

theorem latchPhase_pollSend :
    latchPhase (s.at (.issue1 :: .poll2 :: .wren2 :: up))
      ↔ latchPolls s.io.trace = true ∧ s.work.pmask = s.cfg.srWel ∧ s.work.pmatch = s.cfg.srWel := by
  cases up <;> rfl

theorem latchPhase_pollRead :
    latchPhase (s.at (.issue2 :: .poll2 :: .wren2 :: up))
      ↔ (∃ cmd rest, s.io.trace = .send .rdStatus cmd true :: rest ∧ latchPolls rest = true)
        ∧ s.work.pmask = s.cfg.srWel ∧ s.work.pmatch = s.cfg.srWel ∧ s.work.cmd.dlen = 1 := by
  cases up <;> rfl

theorem latchPhase_poll3 :
    latchPhase (s.at (.poll3 :: .wren2 :: up))
      ↔ (∃ n t cmd rest, s.io.trace = .rxb n t (some [s.work.regbuf.b0]) :: .send .rdStatus cmd true :: rest
          ∧ latchPolls rest = true) ∧ s.work.pmask = s.cfg.srWel ∧ s.work.pmatch = s.cfg.srWel := by
  cases up <;> rfl

end Asked

/-! ### Label stacks at which nothing is asked -/

/-- At the label stack `q` nothing is asked of the trace. -/
def Unasked (q : List Label) : Prop := ∀ s : State, s.seq = q → latchPhase s

/-- The caller's stack is that of `WREN`'s poll at its read. -/
def ReadsForWren (up : List Label) : Prop := ∃ r, up = .poll2 :: .wren2 :: r

theorem Unasked.here {s : State} (h : Unasked s.seq) : latchPhase s := h s rfl

theorem unasked_nil : Unasked [] := fun s hs => by simp [latchPhase, hs]

theorem latchPhase_of_idle {s : State} (hs : s.seq = []) : latchPhase s := unasked_nil s hs

/-- The label is none of `WREN`'s confirmation, of `Issue`'s primitives, or of a guarded command. -/
def Label.plain (l : Label) : Bool :=
  !l.guarded && l != .wren2 && l.sub != some .poll && l != .issue1 && l != .issue2

/-- At a plain label nothing is asked, whoever called it. -/
theorem unasked_plain {l : Label} (hl : l.plain = true) (up : List Label) : Unasked (l :: up) := by
  intro s hs
  simp only [Label.plain, Bool.and_eq_true, Bool.not_eq_true', bne_iff_ne] at hl
  obtain ⟨⟨⟨⟨hg, hw⟩, hp⟩, h1⟩, h2⟩ := hl
  unfold latchPhase
  rw [hs]
  split
  case h_1 hq =>
    obtain ⟨rfl, -⟩ := List.cons.inj hq
    exact fun h => absurd ((guarded_iff l).2 h) (by simp [hg])
  all_goals simp_all [Label.sub]

/-- At `ISSUE.1` of a command that is neither guarded nor the read of `WREN`'s poll. -/
theorem unasked_issue1 {l : Label} {up : List Label} (hg : l.guarded = false) (hp : ¬ ReadsForWren (l :: up)) :
    Unasked (.issue1 :: l :: up) := by
  intro s hs
  unfold latchPhase
  rw [hs]
  split
  case h_2 hq =>
    obtain rfl : l = _ := (List.cons.inj (List.cons.inj hq).2).1
    exact fun h => absurd ((guarded_iff l).2 h) (by simp [hg])
  all_goals simp_all [ReadsForWren]

/-- At `ISSUE.2` of another command than the read of `WREN`'s poll. -/
theorem unasked_issue2 {up : List Label} (hp : ¬ ReadsForWren up) : Unasked (.issue2 :: up) := by
  intro s hs
  unfold latchPhase
  rw [hs]
  split
  case h_1 hq =>
    obtain rfl : Label.issue2 = _ := (List.cons.inj hq).1
    nofun
  all_goals simp_all [ReadsForWren]

/-- In a poll of the operation itself (R144). -/
theorem unasked_poll {x l : Label} (hx : x.sub = some .poll) (hl : l ≠ .wren2) (up : List Label) :
    Unasked (x :: l :: up) := by
  intro s hs
  unfold latchPhase
  rw [hs]
  split
  all_goals simp_all [Label.sub]

/-! ### Calls and returns -/

/-- A label of no subroutine is the outermost of a legal stack (R11). -/
theorem eq_nil_of_legal {op : BitVec 4} {l : Label} {r : List Label} (h : legalSeq op (l :: r) = true)
    (hl : l.sub = none) : r = [] := by
  rcases legal_head h with ⟨hr, -⟩ | ⟨-, hsub⟩
  exacts [hr, absurd hl hsub]

/-- `WREN` is called from operations alone (R146). -/
theorem sub_eq_none_of_calls_wren {l : Label} (h : l.calls = some .wren) : l.sub = none := by
  cases l <;> simp [Label.calls] at h <;> rfl

/-- The running subroutine was called from a label that calls it (R11). -/
theorem caller_of_sub {op : BitVec 4} {x : Label} {up : List Label} {b : Sub} (h : legalSeq op (x :: up) = true)
    (hx : x.sub = some b) : ∃ l r, up = l :: r ∧ l.calls = some b := by
  rcases legal_head h with ⟨-, rfl | hop⟩ | ⟨hne, -⟩
  · cases hx
  · rw [sub_eq_none_of_instr hop] at hx
    cases hx
  · obtain ⟨l, r, rfl⟩ := List.exists_cons_of_ne_nil hne
    obtain ⟨⟨b', hb, hcall⟩, -⟩ := legal_cons_cons_iff.1 h
    exact ⟨l, r, rfl, hcall.trans (hb.symm.trans hx)⟩

/-- The running `Issue` was called from a label that names the pending kind (R127). -/
theorem caller_of_issue {s : State} {x : Label} {up : List Label} (hc : ControlOk s) (hs : s.seq = x :: up)
    (hx : x.sub = some .issue) :
    ∃ l r, up = l :: r ∧ l.calls = some .issue ∧ l.kind = some s.work.arg.kind := by
  obtain ⟨l, r, rfl, hcall⟩ := caller_of_sub (hs ▸ hc.1) hx
  exact ⟨l, r, rfl, hcall, hc.2.1 l (by simp [hs, issueCaller, hx])⟩

/-- The label after a call, but for the calls on the way through `WREN`. -/
theorem plain_succ {l : Label} (hc : l.calls ≠ none) (hw : l.calls ≠ some .wren) (h1 : l ≠ .wren1) (h2 : l ≠ .wren2)
    (hp : l ≠ .poll2) : l.succ.plain = true := by
  revert hc hw h1 h2 hp
  cases l <;> decide

/-- A return leads to a place where something is asked only from `WREN`, into `WREN`, or from the read of its poll. -/
theorem returnTo_unasked {op : BitVec 4} {x l : Label} {r : List Label} (t : State)
    (h : legalSeq op (x :: l :: r) = true) (hx : x.sub ≠ some .wren) (h1 : l ≠ .wren1) (h2 : l ≠ .wren2)
    (hp : ¬ ReadsForWren (l :: r)) : latchPhase (returnTo (l :: r) t) := by
  obtain ⟨⟨b, hb, hcall⟩, hleg⟩ := legal_cons_cons_iff.1 h
  rcases returnTo_cons_seq r t h2 with hq | hq
  · exact latchPhase_of_idle hq
  by_cases hpoll : l = .poll2
  · subst hpoll
    obtain ⟨m, r, rfl, -⟩ := caller_of_sub hleg rfl
    exact unasked_poll rfl (fun hm => hp ⟨r, by rw [hm]⟩) r _ hq
  · have hwren : l.calls ≠ some .wren := fun he => hx (hb.trans (hcall.symm.trans he))
    exact unasked_plain (plain_succ (by simp [hcall]) hwren h1 h2 hpoll) r _ hq

/-- At a label of an operation no more is asked than that the latch is confirmed. -/
theorem latchPhase_of_confirmed {s : State} {l : Label} (hs : s.seq = [l])
    (h : latchConfirmed s.cfg s.io.trace = true) : latchPhase s := by
  rw [← at_self hs]
  exact (latchPhase_alone s l).2 fun _ => h

section Ctrl

variable {s : State} {up : List Label}

/-! ### Operations (R166, R168, R170 to R178) -/

/-- START.1 leads to the first label of an operation, which issues nothing guarded (R166). -/
theorem startStep_latch (s : State) : latchPhase (startStep s) := by
  have enters {l : Label} (hl : l.plain = true) : latchPhase (goto l s) := unasked_plain hl _ _ rfl
  have checks {g : Bool} {l : Label} (hl : l.plain = true) : latchPhase (startChecked g l s) := by
    rcases startChecked_cases g l s with ⟨-, h⟩ | ⟨-, -, h⟩ | ⟨-, -, h⟩ <;> rw [h]
    exacts [latchPhase_of_idle rfl, latchPhase_of_idle rfl, enters hl]
  unfold startStep
  split
  case h_1 | h_2 => exact enters rfl
  case h_12 => exact latchPhase_of_idle rfl
  all_goals exact checks rfl

/-- CTRL calls `Issue` from a label of an operation: what is asked of a guarded command holds already. -/
theorem callIssue_latch {l : Label} {t : State} {k : Kind} {a n p : Word} (hc : ControlOk s) (h : latchPhase s)
    (hs : s.seq = l :: up) (hl : l.sub = none) (ht : t.seq = l :: up) (hcfg : t.cfg = s.cfg) (hio : t.io = s.io) :
    latchPhase (callIssue k a n p t) := by
  have halone := alone_of_legal hc hs hl
  rw [← at_self halone, latchPhase_alone, ← hcfg, ← hio] at h
  rw [← at_self (show (callIssue k a n p t).seq = [.issue1, l] by rw [callIssue_seq, ht, ← hs, halone])]
  exact (latchPhase_issuing _ l).2 h

/-! ### `WREN` and its poll (R142, R146) -/

/-- `WREN.2` calls the poll after the write-enable was sent, before any status read. -/
theorem callPoll_latch (hc : ControlOk s) (h : latchPhase s) (hs : s.seq = .wren2 :: up) :
    latchPhase (call .poll1 s) := by
  obtain ⟨m, r, rfl, -⟩ := caller_of_sub (hs ▸ hc.1) rfl
  rw [← at_self hs] at h ⊢
  exact (latchPhase_poll1 s _).2 ((latchPhase_wren2 s m r).1 h)

/-- `POLL.1` loads `SR_WEL` as mask and match for `WREN` (R144). -/
theorem pollLoad_latch {m : Label} {r : List Label} {args : Byte × Byte × Word} (h : latchPhase s)
    (hs : s.seq = .poll1 :: m :: r) (hargs : pollArgs s.cfg m = some args) : latchPhase (pollLoad args s) := by
  by_cases hm : m = .wren2
  · subst hm
    cases hargs
    rw [← at_self hs] at h ⊢
    exact (latchPhase_poll2 _ r).2 ⟨(latchPhase_poll1 s r).1 h, rfl, rfl⟩
  · exact unasked_poll rfl hm r _ (by rw [pollLoad_seq, hs]; rfl)

/-- `POLL.2` issues a status read. -/
theorem callRead_latch (h : latchPhase s) (hs : s.seq = .poll2 :: up) :
    latchPhase (callIssue .rdStatus 0 0 0 s) := by
  by_cases hp : ReadsForWren (.poll2 :: up)
  · obtain ⟨r, hq⟩ := hp
    obtain rfl : up = .wren2 :: r := (List.cons.inj hq).2
    rw [← at_self hs] at h ⊢
    exact (latchPhase_pollSend _ r).2 ((latchPhase_poll2 s r).1 h)
  · exact unasked_issue1 rfl hp _ (by rw [callIssue_seq, hs])

/-- What `WREN`'s poll has read confirms the latch if it matches (R146). -/
theorem confirmed_of_match {n t : Word} {cmd : Command} {b : Byte} {rest : List LinkCall} {c : Config}
    (hmatch : pollMatches b c.srWel c.srWel = true) (hpolls : latchPolls rest = true) :
    latchConfirmed c (.rxb n t (some [b]) :: .send .rdStatus cmd true :: rest) = true := by
  simp [latchConfirmed, hmatch, hpolls]

/-- `POLL.3`: a match in `WREN` leads to the command that is guarded, and no match to another read. -/
theorem pollTest_latch (hc : ControlOk s) (h : latchPhase s) (hs : s.seq = .poll3 :: up) :
    latchPhase (pollTest up s) := by
  obtain ⟨m, r, rfl, hcall⟩ := caller_of_sub (hs ▸ hc.1) rfl
  have hleg : legalSeq s.work.op (.poll3 :: m :: r) = true := hs ▸ hc.1
  unfold pollTest
  by_cases hm : m = .wren2
  · subst hm
    obtain ⟨l, r, rfl, hwren⟩ := caller_of_sub (legal_cons_cons_iff.1 hleg).2 rfl
    rw [← at_self hs, latchPhase_poll3] at h
    obtain ⟨⟨n, t, cmd, rest, htrace, hpolls⟩, hmask, hmatch⟩ := h
    split
    next hyes =>
      rw [returnTo_wren2, returnTo_poll_or_wren (.inr hwren) (by rintro rfl; cases hwren)]
      have hcaller := (legal_cons_cons_iff.1 (legal_cons_cons_iff.1 hleg).2).2
      obtain rfl := eq_nil_of_legal hcaller (sub_eq_none_of_calls_wren hwren)
      refine latchPhase_of_confirmed rfl ?_
      rw [hmask, hmatch] at hyes
      rw [at_io, at_cfg, htrace]
      exact confirmed_of_match hyes hpolls
    · split
      · exact latchPhase_of_idle rfl
      · rw [← at_self hs]
        exact (latchPhase_poll2 s _).2 ⟨by rw [htrace]; exact hpolls, hmask, hmatch⟩
  · split
    · exact returnTo_unasked s hleg nofun (by rintro rfl; cases hcall) hm
        (by rintro ⟨_, hq⟩; cases hq; cases hcall)
    · split
      · exact latchPhase_of_idle rfl
      · exact unasked_poll rfl hm r _ (by rw [goto_seq, hs]; rfl)

/-! ### The labels of `Issue` (R127) -/

/-- `ISSUE.1` (R127): the command is refused, sent and complete, or sent with its data to follow. -/
theorem issueSend_cases (k : Kind) (a n : Word) (up : List Label) (s : State) :
    issueSend k a n up s = raise .link (s.sent k (encodeCmd s.cfg k a n) false)
      ∨ (k.style = .none ∧ issueSend k a n up s = returnTo up (s.sent k (encodeCmd s.cfg k a n) true))
      ∨ (k.style ≠ .none ∧ issueSend k a n up s = (s.sent k (encodeCmd s.cfg k a n) true).at (.issue2 :: up)) := by
  cases hans : s.io.ans with
  | error =>
    refine .inl ?_
    simp only [issueSend, hans]
    rfl
  | ok b =>
    by_cases hk : k.style = .none
    · refine .inr (.inl ⟨hk, ?_⟩)
      simp only [issueSend, hans, if_pos hk]
      rfl
    · refine .inr (.inr ⟨hk, ?_⟩)
      simp only [issueSend, hans, if_neg hk]
      rfl

/-- `ISSUE.2` of a register read (R127): refused, or the bytes are in `REGBUF`. -/
theorem issueRxb_cases (up : List Label) (s : State) :
    issueRxb up s = raise .link (s.traced (.rxb s.work.cmd.dlen s.cfg.tBlocking none))
      ∨ ∃ b : Bytes4, issueRxb up s = returnTo up
          (({ s with work.regbuf := s.work.regbuf.receive s.work.cmd.dlen.toNat b } : State).traced
            (.rxb s.work.cmd.dlen s.cfg.tBlocking (some (b.take s.work.cmd.dlen.toNat)))) := by
  cases hans : s.io.ans with
  | error =>
    refine .inl ?_
    simp only [issueRxb, hans]
    rfl
  | ok b =>
    refine .inr ⟨b, ?_⟩
    simp only [issueRxb, hans]
    rfl

/-- `ISSUE.1`: the write-enable of `WREN`, the status read of its poll, or a command after which nothing is asked. -/
theorem issueSend_latch (hc : ControlOk s) (h : latchPhase s) (hs : s.seq = .issue1 :: up) :
    latchPhase (issueSend s.work.arg.kind s.work.arg.a s.work.arg.n up s) := by
  obtain ⟨l, r, rfl, hcall, hkind⟩ := caller_of_issue hc hs rfl
  have hleg : legalSeq s.work.op (.issue1 :: l :: r) = true := hs ▸ hc.1
  rcases issueSend_cases s.work.arg.kind s.work.arg.a s.work.arg.n (l :: r) s with he | ⟨hst, he⟩ | ⟨hst, he⟩ <;>
    rw [he]
  · exact latchPhase_of_idle rfl
  · by_cases h1 : l = .wren1
    · subst h1
      obtain ⟨m, r, rfl, -⟩ := caller_of_sub (legal_cons_cons_iff.1 hleg).2 rfl
      rw [returnTo_wren1, latchPhase_wren2, sent_trace, ← Option.some.inj hkind]
      rfl
    · refine returnTo_unasked _ hleg nofun h1 (by rintro rfl; cases hcall) ?_
      rintro ⟨_, hq⟩
      cases hq
      rw [← Option.some.inj hkind] at hst
      cases hst
  · by_cases hp : ReadsForWren (l :: r)
    · obtain ⟨_, hq⟩ := hp
      cases hq
      rw [← at_self hs, latchPhase_pollSend] at h
      obtain ⟨hpolls, hmask, hmatch⟩ := h
      rw [latchPhase_pollRead, sent_trace, ← Option.some.inj hkind]
      exact ⟨⟨_, _, rfl, hpolls⟩, hmask, hmatch, rfl⟩
    · exact (unasked_issue2 hp).here

/-- `ISSUE.2` of the status read in `WREN`'s poll puts the byte it shows in `REGBUF[0]` (R127, R142). -/
theorem readStatus_latch {r : List Label} (h : latchPhase s) (hs : s.seq = .issue2 :: .poll2 :: .wren2 :: r) :
    latchPhase (issueRxb (.poll2 :: .wren2 :: r) s) := by
  rw [← at_self hs, latchPhase_pollRead] at h
  obtain ⟨⟨cmd, rest, htrace, hpolls⟩, hmask, hmatch, hlen⟩ := h
  rcases issueRxb_cases (.poll2 :: .wren2 :: r) s with he | ⟨b, he⟩ <;> rw [he]
  · exact latchPhase_of_idle rfl
  · refine (latchPhase_poll3 _ r).2 ⟨⟨s.work.cmd.dlen, s.cfg.tBlocking, cmd, rest, ?_, hpolls⟩, hmask, hmatch⟩
    rw [traced_trace, htrace, hlen]
    rfl

/-- `ISSUE.2`: outside `WREN`'s poll nothing is asked after it. -/
theorem dataStep_latch (hc : ControlOk s) (h : latchPhase s) (hs : s.seq = .issue2 :: up) :
    latchPhase (dataStep up s) := by
  obtain ⟨l, r, rfl, hcall, hkind⟩ := caller_of_issue hc hs rfl
  have hleg : legalSeq s.work.op (.issue2 :: l :: r) = true := hs ▸ hc.1
  by_cases hp : ReadsForWren (l :: r)
  · obtain ⟨_, hq⟩ := hp
    cases hq
    simp only [dataStep, ← Option.some.inj hkind]
    exact readStatus_latch h hs
  have hdata : s.work.arg.kind.style ≠ .none := by simpa [styleAt] using hc.2.2 .issue2 (by simp [hs])
  have returns (t : State) : latchPhase (returnTo (l :: r) t) := by
    refine returnTo_unasked t hleg nofun ?_ (by rintro rfl; cases hcall) hp
    rintro rfl
    exact hdata (by rw [← Option.some.inj hkind]; rfl)
  unfold dataStep
  split
  next => unfold issueRxb; split; exacts [latchPhase_of_idle rfl, returns _]
  next => unfold issueTxb; split; exacts [latchPhase_of_idle rfl, returns _]
  next => unfold issueRxa; split; exacts [latchPhase_of_idle rfl, unasked_plain rfl _ _ rfl]
  next => unfold issueTxa; split; exacts [latchPhase_of_idle rfl, unasked_plain rfl _ _ rfl]
  next => exact h

/-- `WAIT.2` goes on or returns to `ISSUE.3`. -/
theorem waitStep_latch (hc : ControlOk s) (h : latchPhase s) (hs : s.seq = .wait2 :: up) :
    latchPhase (waitStep up s) := by
  obtain ⟨up, rfl⟩ := caller_of_wait2 (hs ▸ hc.1)
  have returns (t : State) : latchPhase (returnTo (.issue3 :: up) t) := unasked_plain rfl up _ rfl
  unfold waitStep waitRx waitTx
  repeat' split
  exacts [returns _, returns _, h, returns _, returns _, h, h]

/-- `ISSUE.4` ends an array transfer, after which nothing is asked. -/
theorem releaseStep_latch (hc : ControlOk s) (h : latchPhase s) (hs : s.seq = .issue4 :: up) :
    latchPhase (releaseStep up s) := by
  obtain ⟨l, r, rfl, -, hkind⟩ := caller_of_issue hc hs rfl
  have hst := hc.2.2 .issue4 (by simp [hs])
  have hl : l = .rd2 ∨ l = .wr3 := eq_rd2_or_wr3_of_style hkind (by simpa [styleAt] using hst)
  have returns (t : State) : latchPhase (returnTo (l :: r) t) := by
    rcases hl with rfl | rfl <;> exact unasked_plain rfl r _ rfl
  unfold releaseStep issueEnd
  repeat' split
  exacts [latchPhase_of_idle rfl, returns _, latchPhase_of_idle rfl, returns _, h]

/-! ### CTRL's labelled step -/

/-- CTRL's labelled step leads from a place where the trace shows what is asked to another. -/
theorem micro_latchPhase (hc : ControlOk s) (h : latchPhase s) : latchPhase (micro s) := by
  have goes {l : Label} {t : State} {q : List Label} (hl : l.plain = true) (ht : t.seq = l :: q) : latchPhase t :=
    unasked_plain hl q t ht
  cases hs : s.seq with
  | nil => simpa only [micro, hs] using h
  | cons l up =>
    cases l <;> simp only [micro, hs]
    case start1 => exact startStep_latch s
    case in1 =>
      unfold initReset
      split
      exacts [latchPhase_of_idle rfl, goes (l := .in2) rfl rfl]
    case in3 | in8 => exact callIssue_latch hc h hs rfl rfl rfl rfl
    case in5 | in7 | in9 | in11 | in13 | rd2 | wr3 | eb2 | ec2 | le1 | ll1 =>
      exact callIssue_latch hc h hs rfl hs rfl rfl
    case su2 | rs2 =>
      split
      exacts [callIssue_latch hc h hs rfl hs rfl rfl, latchPhase_of_idle rfl]
    case in14 | gi1 | rd3 | wr6 | eb4 | ec4 | gst2 | le2 | ll2 => exact latchPhase_of_idle rfl
    case in4 | in10 | wr2 | eb1 | ec1 | gst1 | su1 | rs1 | issue3 | wait1 => exact goes rfl rfl
    case rd1 => split <;> exact goes rfl rfl
    case wr1 => unfold writeFirst; split <;> exact goes rfl rfl
    case wr5 =>
      unfold writeAdvance
      dsimp only
      split <;> exact goes rfl rfl
    case in2 | in6 | in12 | wr4 | eb3 | ec3 => exact unasked_poll rfl (by simp) up _ (congrArg (Label.poll1 :: ·) hs)
    case wren2 => exact callPoll_latch hc h hs
    case poll1 =>
      split
      · split
        next hargs => exact pollLoad_latch h hs hargs
        next => exact h
      · exact h
    case poll2 => exact callRead_latch h hs
    case poll3 => exact pollTest_latch hc h hs
    case wren1 | gs1 | gs2 =>
      exact unasked_issue1 rfl (by rintro ⟨_, hq⟩; cases hq) _ (congrArg (Label.issue1 :: ·) hs)
    case gs3 =>
      obtain ⟨m, r, rfl, hcall⟩ := caller_of_sub (hs ▸ hc.1) rfl
      rw [returnTo_getStatus hcall]
      cases m <;> simp [Label.calls] at hcall <;> exact goes rfl rfl
    case issue1 => exact issueSend_latch hc h hs
    case issue2 => exact dataStep_latch hc h hs
    case issue4 => exact releaseStep_latch hc h hs
    case wait2 => exact waitStep_latch hc h hs

/-! ### The trace -/

/-- At `ISSUE.1` of a guarded command the latch has just been confirmed (R235). -/
theorem pending_guarded_confirmed (hc : ControlOk s) (h : latchPhase s) (hs : s.seq.head? = some .issue1)
    (hk : needsLatch s.work.arg.kind = true) : latchConfirmed s.cfg s.io.trace = true := by
  obtain ⟨up, hq⟩ := List.head?_eq_some_iff.1 hs
  obtain ⟨l, r, rfl, -, hkind⟩ := caller_of_issue hc hq rfl
  have hguard : l.guarded = true := by simp [Label.guarded, hkind, hk]
  have hsub : l.sub = none := by rcases (guarded_iff l).1 hguard with rfl | rfl | rfl | rfl | rfl <;> rfl
  have hleg : legalSeq s.work.op (l :: r) = true := (legal_cons_cons_iff.1 (hq ▸ hc.1)).2
  obtain rfl := eq_nil_of_legal hleg hsub
  rw [← at_self hq] at h
  exact (latchPhase_issuing s l).1 h hguard

/-- A primitive that is no guarded command, or comes after the confirmation, may follow. -/
theorem latchBeforeEach_cons {c : Config} {e : LinkCall} {trace : List LinkCall}
    (h : latchBeforeEach c trace = true)
    (he : ∀ k cmd ok, e = .send k cmd ok → needsLatch k = true → latchConfirmed c trace = true) :
    latchBeforeEach c (e :: trace) = true := by
  cases e with
  | send k cmd ok =>
    have hk := he k cmd ok rfl
    cases hneeds : needsLatch k <;> simp_all [latchBeforeEach]
  | _ => exact h

/-- CTRL's labelled step sends a guarded command only after the confirmation. -/
theorem micro_latchBeforeEach (hc : ControlOk s) (h : latchPhase s) (hb : latchBeforeEach s.cfg s.io.trace = true) :
    latchBeforeEach (micro s).cfg (micro s).io.trace = true := by
  obtain ⟨-, htrace⟩ := micro_shows s
  rw [(micro_space s).1]
  rcases htrace with htrace | ⟨e, htrace, hsent⟩ <;> rw [htrace]
  · exact hb
  · refine latchBeforeEach_cons hb fun k cmd ok he hk => ?_
    obtain ⟨hs, rfl, -⟩ := hsent k cmd ok he
    exact pending_guarded_confirmed hc h hs hk

end Ctrl

/-! ### The other agents and the whole step -/

/-- What is asked reads neither the timer nor the schedule. -/
theorem latchPhase_congr {s t : State} {v : Word} (h : latchPhase s) (hseq : t.seq = s.seq) (hcfg : t.cfg = s.cfg)
    (htrace : t.io.trace = s.io.trace) (hwork : t.work = { s.work with tmr := v }) : latchPhase t := by
  unfold latchPhase at *
  rw [hseq, hcfg, htrace, hwork]
  exact h

/-- The other agents show no primitive; reset and a start lead to places at which nothing is asked. -/
theorem agentStep_latchPhase {e : Event} {s t : State} (h : latchPhase s) (hst : agentStep e s = .next t) :
    latchPhase t := by
  rcases agentStep_block_cases hst with ⟨-, rfl⟩ | ⟨-, rfl⟩ | ⟨v, -, rfl⟩ | ⟨-, hkept⟩
  · exact latchPhase_congr h (by simp) (by simp) (by simp) (tick_work s)
  · exact latchPhase_of_idle rfl
  · exact unasked_plain (l := .start1) rfl [] _ rfl
  · exact latchPhase_congr h hkept.seq (agentStep_space hst).1 (agentStep_shows hst).1 hkept.work

theorem takeEvent_latchPhase {s : State} (h : latchPhase s) (e : Event) (rest : List Event) :
    latchPhase (s.takeEvent e rest) :=
  latchPhase_congr h (by simp) (by simp) (by simp) (takeEvent_work s e rest)

/-- Settles O54: on the way from `WREN` to the command it guards the trace shows the write-enable and the status reads
alone, and CTRL sends such a command only there. -/
theorem writeEnableImmediatelyBefore : Obligations.WriteEnableImmediatelyBefore := by
  intro s t hc h hb hst
  have hb' (e : Event) (rest : List Event) :
      latchBeforeEach (s.takeEvent e rest).cfg (s.takeEvent e rest).io.trace = true := by simpa using hb
  rcases step_micro hc hst with rfl | ⟨_, rest, -, -, rfl⟩ | ⟨ans, rest, -, -, rfl⟩ | ⟨e, rest, -, -, ha⟩
  · exact ⟨h, hb⟩
  · exact ⟨takeEvent_latchPhase h _ _, hb' _ _⟩
  · have hc' := takeEvent_control hc (.ctrl ans) rest
    have h' := takeEvent_latchPhase h (.ctrl ans) rest
    exact ⟨micro_latchPhase hc' h', micro_latchBeforeEach hc' h' (hb' _ _)⟩
  · refine ⟨agentStep_latchPhase (takeEvent_latchPhase h _ _) ha, ?_⟩
    rw [(agentStep_space ha).1, (agentStep_shows ha).1]
    exact hb' _ _

end Sys2Proof.Machine
end
